-- ==== Sys2Proof/Word.lean ====
section
/-! DEFINITION. The plain value types of the Tile/Sprite Video Block (TSVB): bytes, bus addresses, command
words, the sparse form of a memory, and two-dimensional surfaces (spec/00_scope.md R20, R21, R30). -/

namespace Sys2Proof

/-- A u8 (00_scope.md R20). -/
abbrev Byte := BitVec 8

/-- A u16 bus address (00_scope.md R20, 20_memory.md R200). -/
abbrev Addr := BitVec 16

/-- One 32-bit command word (30_encoding.md R300). -/
abbrev Word := BitVec 32

/-- A byte memory as a list of cells in one canonical form: addresses strictly rising, no listed byte equal to
what an unlisted address reads as (`Machine/Memory.lean` holds the operations and the form's check). -/
abbrev Memory := List Host.Cell

/-- A two-dimensional array indexed `[row][column]` (00_scope.md R30, "Surface"). -/
abbrev Surface (α : Type) := List (List α)

end Sys2Proof
end

