-- ==== Sys2Proof/Syntax.lean ====
section
/-! DEFINITION. The commands of the TSVB: one constructor per row of spec/opcode_table.json
(30_encoding.md R302), with the operands of R301, R303 and R304. -/

namespace Sys2Proof

/-- The CPU whose dispatch table a bus command uses (30_encoding.md R303). -/
inductive Cpu where
  | main
  | sound
deriving DecidableEq, Repr

/-- The address space of a bus command (30_encoding.md R303). -/
inductive Space where
  | mem
  | io
deriving DecidableEq, Repr

/-- The two tilemap layers (00_scope.md R13). -/
inductive Layer where
  | bg
  | fg
deriving DecidableEq, Repr

/-- The two sequencers: instance 0 is the main-CPU (vblank) one, instance 1 the sound-CPU (timer) one
(45_sequencer.md R700). -/
inductive Sequencer where
  | main
  | sound
deriving DecidableEq, Repr

/-- One command of the TSVB (30_encoding.md R302). Operand widths are those of R301. -/
inductive Instr where
  /-- Read one byte through the router (40_dispatch.md R410). -/
  | busrd (cpu : Cpu) (space : Space) (addr : Addr)
  /-- Write one byte through the router (40_dispatch.md R420). -/
  | buswr (cpu : Cpu) (space : Space) (addr : Addr) (data : Byte)
  /-- Select a bank (41_bank.md R450). -/
  | selbank (value : Byte)
  /-- Decode one tile and return its pixel block (42_decoder.md R501). -/
  | decode (layout : BitVec 3) (tile : BitVec 12) (coloff : BitVec 11) (fx fy : Bool)
  /-- Mark one tilemap cell dirty (43_dirty.md R550). -/
  | markdirty (layer : Layer) (cell : BitVec 16)
  /-- Re-decode and clean every dirty cell of a layer (43_dirty.md R560). -/
  | flushdirty (layer : Layer)
  /-- Force every cell dirty (43_dirty.md R565). -/
  | invalall
  /-- Derive the palette from the colour PROM (43_dirty.md R570). -/
  | palload
  /-- Draw and present one frame (44_compositor.md R600). -/
  | render
  /-- One periodic tick of a sequencer (45_sequencer.md R710). -/
  | tick (seq : Sequencer)
  /-- Write the mailbox (46_mailbox.md R750). -/
  | mbwr (value : Byte)
  /-- Read the mailbox (46_mailbox.md R752). -/
  | mbrd
  /-- Clear the mailbox pending bit (46_mailbox.md R754). -/
  | mbclr
  /-- Create the video buffers (44_compositor.md R660). -/
  | vidstart
  /-- Destroy the video buffers (44_compositor.md R662). -/
  | vidstop
  /-- Machine reset (70_reset_and_hazards.md R900). -/
  | reset
deriving DecidableEq, Repr

end Sys2Proof
end

