-- ==== Sys2Proof/Config.lean ====
section
/-! DEFINITION. The configuration record `cfg` (00_scope.md R10 to R16) as plain data, and the free values: what
the spec calls unspecified or an external draw (R17) is an opaque constant here, so no proof can see its value.
A configuration is a field of the machine's state that no command writes (R22), so that a statement about every
state holds for every configuration. -/

namespace Sys2Proof

/-- One value for each tilemap layer. -/
structure Layered (α : Type) where
  bg : α
  fg : α
deriving DecidableEq, Repr

/-- The value of one layer. -/
def Layered.get {α : Type} (p : Layered α) : Layer → α
  | .bg => p.bg
  | .fg => p.fg

/-- Replace the value of one layer. -/
def Layered.set {α : Type} (p : Layered α) (L : Layer) (v : α) : Layered α :=
  match L with
  | .bg => { p with bg := v }
  | .fg => { p with fg := v }

/-- A pixel record: the raw pen and the colour index (30_encoding.md R360). -/
structure PixelRec where
  pen : Nat
  index : Nat
deriving DecidableEq, Repr, Inhabited

/-- One palette entry, an opaque token the TSVB copies and never computes with (00_scope.md R15 `RGB`,
10_state.md R105). DESIGN CHOICE (notes/assumptions/3.md): the type `cfg.RGB` is a token numbered by a natural. -/
structure RGB where
  token : Nat
deriving DecidableEq, Repr, Inhabited

/-- The class of an interrupt request (10_state.md R150). -/
inductive IntKind where
  | nmi
  | irq
deriving DecidableEq, Repr

/-- Whether re-selecting the mapped bank emits ProgramBank (00_scope.md R11, 41_bank.md R451). -/
inductive EqualBankEvent where
  | emit
  | skip
  | either
deriving DecidableEq, Repr

/-- The function `bankOutOfRange` from u8 (00_scope.md R11, 41_bank.md R453): the reference `value mod bankCount`
("mask"), `bankCount - 1` ("clamp"), or any other function as its table of 256 values. DESIGN CHOICE, safe
(notes/assumptions/12.md). -/
inductive OutOfRangeFn where
  | mask
  | clamp
  | table (values : List Nat)
deriving DecidableEq, Repr

/-- How the sprite y field maps to the screen (00_scope.md R14, 44_compositor.md R623). -/
inductive YSense where
  | inverted
  | direct
deriving DecidableEq, Repr

/-- The buffer of a VID range (30_encoding.md R331). -/
inductive VidBuffer where
  | tilemap (layer : Layer)
  | sprite
deriving DecidableEq, Repr

/-- The kind of an address range with its fields (30_encoding.md R331). A region is named by its number in
`cfg.romImage` or `cfg.ramSize`; `rh` and `wh` are the 5-bit handler codes of R320. -/
inductive RangeKind where
  | rom (region base : Nat) (banked : Bool)
  | ram (region base : Nat) (banked : Bool)
  | reg (rh wh : BitVec 5) (arg : Nat)
  | vid (buffer : VidBuffer) (base : Nat)
deriving DecidableEq, Repr

/-- An address range, both ends inclusive (30_encoding.md R330). -/
structure AddressRange where
  start : Addr
  stop : Addr
  kind : RangeKind
deriving DecidableEq, Repr

/-- The contents of one ROM region: its length, and its bytes in the sparse form (unlisted bytes are 0). Every byte
array has exactly one such form (00_scope.md R10 `romImage`). DESIGN CHOICE, safe (notes/assumptions/13.md). -/
structure RomImage where
  size : Nat
  bytes : Memory
deriving DecidableEq, Repr

/-- Bus parameters (00_scope.md R10): the four dispatch tables, the ROM images, the RAM sizes, and the value of
an unmapped read. -/
structure BusCfg where
  mainMem : List AddressRange
  mainIo : List AddressRange
  soundMem : List AddressRange
  soundIo : List AddressRange
  romImage : List RomImage
  ramSize : List Nat
  openBusValue : Byte
deriving DecidableEq, Repr

/-- Bank parameters (00_scope.md R11). -/
structure BankCfg where
  bankCount : Nat
  bankSize : Nat
  bankOutOfRange : OutOfRangeFn
  bankResetValue : Nat
  equalBankEvent : EqualBankEvent
deriving DecidableEq, Repr

/-- A TileLayoutDescriptor (00_scope.md R12, 30_encoding.md R370). Offsets count bits, `bytesPerTile` bytes. -/
structure TileLayout where
  tileWidth : Nat
  tileHeight : Nat
  tileCount : Nat
  bitsPerPixel : Nat
  planeOffsets : List Nat
  xOffsets : List Nat
  yOffsets : List Nat
  bytesPerTile : Nat
  gfxRegion : Nat
deriving DecidableEq, Repr, Inhabited

/-- The parameters of one tilemap layer (00_scope.md R13). -/
structure LayerCfg where
  cols : Nat
  rows : Nat
  planes : Nat
  layoutOf : Nat
  codeHiShift : Nat
  codeHiMask : Nat
  colorShift : Nat
  colorMask : Nat
  flipXBit : Option Nat
  flipYBit : Option Nat
  colorBase : Nat
deriving DecidableEq, Repr

/-- A sprite field descriptor (30_encoding.md R340). -/
structure FieldDesc where
  byte : Nat
  shift : Nat
  mask : Nat
deriving DecidableEq, Repr

/-- Sprite parameters (00_scope.md R14). -/
structure SpriteCfg where
  spriteCount : Nat
  entrySize : Nat
  fY : FieldDesc
  fXLo : FieldDesc
  fTileLo : FieldDesc
  fColor : FieldDesc
  fXHi : Option FieldDesc
  fTileHi : Option FieldDesc
  fFlipX : Option FieldDesc
  fFlipY : Option FieldDesc
  fBank : Option FieldDesc
  fEnable : Option FieldDesc
  spriteLayouts : List Nat
  colorBase : Nat
  xOrigin : Int
  yOrigin : Int
  ySense : YSense
deriving DecidableEq, Repr

/-- Raster and colour parameters (00_scope.md R15). The function `paletteDerive` is applied only to `promBytes`
(43_dirty.md R570), so the record holds its two results, `derivedPalette` and `derivedIndexTable`
(DESIGN CHOICE, notes/assumptions/3.md). -/
structure RasterCfg where
  visW : Nat
  visH : Nat
  transPenSpr : Nat
  transPenFg : Nat
  bgBlankIndex : Nat
  colorIndexTableSize : Nat
  promBytes : List Byte
  derivedPalette : List RGB
  derivedIndexTable : List Nat
deriving DecidableEq, Repr

/-- Sequencer and mailbox parameters (00_scope.md R16): `seqKindMain` is `seqKind[0]`, `seqKindSound` is
`seqKind[1]`. -/
structure IntCfg where
  seqKindMain : IntKind
  seqKindSound : IntKind
  mailboxRaisesInt : Bool
  mailboxIntKind : IntKind
deriving DecidableEq, Repr

/-- The configuration record of one machine variant (00_scope.md section 4). -/
structure Config where
  bus : BusCfg
  bank : BankCfg
  layouts : List TileLayout
  layers : Layered LayerCfg
  sprite : SpriteCfg
  raster : RasterCfg
  ints : IntCfg
deriving DecidableEq, Repr

/-! ### Free values (00_scope.md R17, 93_implementation_defined.md)

The argument `n` is the draw number, a counter of the state. Nothing constrains the value, so a statement holds
whatever it is. -/

/-- An unspecified u8 (70_reset_and_hazards.md R900: mailbox latch, scroll low bytes). DESIGN CHOICE, safe
(notes/assumptions/6.md). -/
opaque Config.freeByte (n : Nat) : Byte

/-- An unspecified bit (70_reset_and_hazards.md R900: one-bit registers; 41_bank.md R451: `either`). DESIGN CHOICE,
safe (notes/assumptions/6.md, 18.md). -/
opaque Config.freeBit (n : Nat) : Bool

/-- The unspecified pixel record of a cache at row `y`, column `x` after VIDSTART (44_compositor.md R660). DESIGN
CHOICE, safe (notes/assumptions/6.md). -/
opaque Config.freePixel (n : Nat) (L : Layer) (y x : Nat) : PixelRec

/-- The unspecified colour index of the frame buffer at row `y`, column `x` after VIDSTART (R660). DESIGN CHOICE,
safe (notes/assumptions/6.md). -/
opaque Config.freeIndex (n : Nat) (y x : Nat) : Nat

/-- The unspecified surface pixel at row `y`, column `x` of a presented frame (44_compositor.md R650). DESIGN
CHOICE, safe (notes/assumptions/6.md). -/
opaque Config.freeRGB (n : Nat) (y x : Nat) : RGB

/-- The value of an input-port read the host has not listed in the state (`inputDraw(arg)`, R17). DESIGN CHOICE,
safe (notes/assumptions/7.md). -/
opaque Config.inputDraw (arg n : Nat) : Byte

/-- The success of a video start the host has not listed in the state (`allocDraw`, R17). DESIGN CHOICE, safe
(notes/assumptions/7.md). -/
opaque Config.allocDraw (n : Nat) : Bool

end Sys2Proof
end

