-- ==== Sys2Proof/WellFormed.lean ====
section
/-! DEFINITION. What makes a command legal beyond its format (30_encoding.md R305): the operand types already
hold every field in its range, so the one check left is that DECODE names a layout the configuration has. -/

namespace Sys2Proof

/-- `i` is a legal command on configuration `c` (30_encoding.md R305, 42_decoder.md R501). -/
def Instr.wellFormed (c : Config) : Instr → Bool
  | .busrd _ _ _ => true
  | .buswr _ _ _ _ => true
  | .selbank _ => true
  | .decode layout _ _ _ _ => decide (layout.toNat < c.layouts.length)
  | .markdirty _ _ => true
  | .flushdirty _ => true
  | .invalall => true
  | .palload => true
  | .render => true
  | .tick _ => true
  | .mbwr _ => true
  | .mbrd => true
  | .mbclr => true
  | .vidstart => true
  | .vidstop => true
  | .reset => true

end Sys2Proof
end

