-- ==== Sys2Proof/Decode.lean ====
section
/-! DEFINITION. The decoder and the encoder of the 32-bit command word (30_encoding.md R300 to R306). The decoder
is total: every word is one command of R302 or illegal (`none`). -/

namespace Sys2Proof

/-- `w[hi:lo]`, the unsigned value of bits `hi` down to `lo` (00_scope.md R21). -/
def bits (w : Word) (hi lo : Nat) : Nat := w.toNat / 2 ^ lo % 2 ^ (hi + 1 - lo)

/-- A one-bit operand field as a boolean (30_encoding.md R303). -/
def flag (v : Nat) : Bool := v == 1

/-- The `cpu` field (30_encoding.md R303). -/
def cpuOf (v : Nat) : Cpu := if v = 0 then .main else .sound

/-- The `space` field (30_encoding.md R303). -/
def spaceOf (v : Nat) : Space := if v = 0 then .mem else .io

/-- The `seq` field (30_encoding.md R303). -/
def seqOf (v : Nat) : Sequencer := if v = 0 then .main else .sound

/-- The `layer` field; 2 and 3 are illegal (30_encoding.md R301, R305). -/
def layerOf : Nat → Option Layer
  | 0 => some .bg
  | 1 => some .fg
  | _ => none

/-- `i` when every listed reserved field is 0, and illegal otherwise (30_encoding.md R305). -/
def reserved (fields : List Nat) (i : Instr) : Option Instr :=
  if fields.all (· == 0) then some i else none

/-- Format B, BUSRD: `data` must be 0 (30_encoding.md R301, R305). -/
def decodeBusrd (w : Word) : Option Instr :=
  reserved [bits w 25 24, bits w 23 16]
    (.busrd (cpuOf (bits w 27 27)) (spaceOf (bits w 26 26)) (BitVec.ofNat 16 (bits w 15 0)))

/-- Format B, BUSWR (30_encoding.md R301). -/
def decodeBuswr (w : Word) : Option Instr :=
  reserved [bits w 25 24]
    (.buswr (cpuOf (bits w 27 27)) (spaceOf (bits w 26 26)) (BitVec.ofNat 16 (bits w 15 0))
      (BitVec.ofNat 8 (bits w 23 16)))

/-- Format V, SELBANK (30_encoding.md R301). -/
def decodeSelbank (w : Word) : Option Instr :=
  reserved [bits w 27 8] (.selbank (BitVec.ofNat 8 (bits w 7 0)))

/-- Format D, DECODE (30_encoding.md R301). -/
def decodeDecode (w : Word) : Option Instr :=
  some (.decode (BitVec.ofNat 3 (bits w 25 23)) (BitVec.ofNat 12 (bits w 11 0))
    (BitVec.ofNat 11 (bits w 22 12)) (flag (bits w 26 26)) (flag (bits w 27 27)))

/-- Format L, MARKDIRTY (30_encoding.md R301). -/
def decodeMarkdirty (w : Word) : Option Instr :=
  match layerOf (bits w 27 26) with
  | none => none
  | some L => reserved [bits w 25 16] (.markdirty L (BitVec.ofNat 16 (bits w 15 0)))

/-- Format L, FLUSHDIRTY: `cell` must be 0 (30_encoding.md R301, R305). -/
def decodeFlushdirty (w : Word) : Option Instr :=
  match layerOf (bits w 27 26) with
  | none => none
  | some L => reserved [bits w 25 16, bits w 15 0] (.flushdirty L)

/-- Format N (30_encoding.md R301). -/
def decodeNoOperand (i : Instr) (w : Word) : Option Instr :=
  reserved [bits w 27 0] i

/-- Format S, TICK (30_encoding.md R301). -/
def decodeTick (w : Word) : Option Instr :=
  reserved [bits w 26 0] (.tick (seqOf (bits w 27 27)))

/-- Format V, MBWR (30_encoding.md R301). -/
def decodeMbwr (w : Word) : Option Instr :=
  reserved [bits w 27 8] (.mbwr (BitVec.ofNat 8 (bits w 7 0)))

/-- Format C, VIDSTART and VIDSTOP (30_encoding.md R301). -/
def decodeVideo (w : Word) : Option Instr :=
  reserved [bits w 27 1] (if bits w 0 0 = 1 then .vidstart else .vidstop)

/-- The command a word stands for by its format alone, or `none` for a word that no configuration accepts
(30_encoding.md R301, R302, R305). -/
def decodeWord (w : Word) : Option Instr :=
  match bits w 31 28 with
  | 0x1 => decodeBusrd w
  | 0x2 => decodeBuswr w
  | 0x3 => decodeSelbank w
  | 0x4 => decodeDecode w
  | 0x5 => decodeMarkdirty w
  | 0x6 => decodeFlushdirty w
  | 0x7 => decodeNoOperand .invalall w
  | 0x8 => decodeNoOperand .palload w
  | 0x9 => decodeNoOperand .render w
  | 0xA => decodeTick w
  | 0xB => decodeMbwr w
  | 0xC => decodeNoOperand .mbrd w
  | 0xD => decodeNoOperand .mbclr w
  | 0xE => decodeVideo w
  | 0xF => decodeNoOperand .reset w
  | _ => none

/-- The legal command a word stands for on configuration `c`, or `none` for a word R305 calls illegal
(30_encoding.md R305, R306). -/
def legalCommand (c : Config) (w : Word) : Option Instr :=
  match decodeWord w with
  | none => none
  | some i => if i.wellFormed c then some i else none

/-- The host's view of the decoder: the instruction whose `nbits` bits are `w`. Every command is one 32-bit
word (30_encoding.md R300), so the bits above `nbits` are 0. -/
def decodeTableWord (nbits w : Nat) : Option Instr :=
  decodeWord (BitVec.ofNat 32 (w % 2 ^ nbits))

/-! ### The encoder -/

/-- The value of the `cpu` bit (30_encoding.md R303). -/
def Cpu.bit : Cpu → Nat
  | .main => 0
  | .sound => 1

/-- The value of the `space` bit (30_encoding.md R303). -/
def Space.bit : Space → Nat
  | .mem => 0
  | .io => 1

/-- The value of the `layer` field (30_encoding.md R303). -/
def Layer.bit : Layer → Nat
  | .bg => 0
  | .fg => 1

/-- The value of the `seq` bit (30_encoding.md R303). -/
def Sequencer.bit : Sequencer → Nat
  | .main => 0
  | .sound => 1

/-- The opcode of a command, bits 31:28 of its word (30_encoding.md R302). -/
def Instr.opcode : Instr → Nat
  | .busrd _ _ _ => 0x1
  | .buswr _ _ _ _ => 0x2
  | .selbank _ => 0x3
  | .decode _ _ _ _ _ => 0x4
  | .markdirty _ _ => 0x5
  | .flushdirty _ => 0x6
  | .invalall => 0x7
  | .palload => 0x8
  | .render => 0x9
  | .tick _ => 0xA
  | .mbwr _ => 0xB
  | .mbrd => 0xC
  | .mbclr => 0xD
  | .vidstart => 0xE
  | .vidstop => 0xE
  | .reset => 0xF

/-- The operand bits of a command, bits 27:0 of its word (30_encoding.md R301). -/
def Instr.operandBits : Instr → Nat
  | .busrd c s a => c.bit * 2 ^ 27 + s.bit * 2 ^ 26 + a.toNat
  | .buswr c s a d => c.bit * 2 ^ 27 + s.bit * 2 ^ 26 + d.toNat * 2 ^ 16 + a.toNat
  | .selbank v => v.toNat
  | .decode k t c fx fy => fy.toNat * 2 ^ 27 + fx.toNat * 2 ^ 26 + k.toNat * 2 ^ 23 + c.toNat * 2 ^ 12 + t.toNat
  | .markdirty L cell => L.bit * 2 ^ 26 + cell.toNat
  | .flushdirty L => L.bit * 2 ^ 26
  | .invalall => 0
  | .palload => 0
  | .render => 0
  | .tick q => q.bit * 2 ^ 27
  | .mbwr v => v.toNat
  | .mbrd => 0
  | .mbclr => 0
  | .vidstart => 1
  | .vidstop => 0
  | .reset => 0

/-- The word of a command (30_encoding.md R301, R302). -/
def encode (i : Instr) : Word := BitVec.ofNat 32 (i.opcode * 2 ^ 28 + i.operandBits)

end Sys2Proof
end

