-- ==== Sys2Proof/Machine/Memory.lean ====
section
/-! DEFINITION. The sparse byte memory: reading, writing, and the check of its canonical form. It backs the RAM
regions, the tilemap and sprite video RAM (10_state.md R130 to R132) and the ROM images (00_scope.md R10). -/

namespace Sys2Proof

/-- What a byte that nothing has written reads as. The spec calls RAM at power-on unspecified (10_state.md R180);
DESIGN CHOICE (notes/assumptions/5.md): it reads as 0. -/
def Memory.unwritten : Byte := 0

/-- The byte at index `i`. -/
def Memory.read : Memory → Nat → Byte
  | [], _ => Memory.unwritten
  | c :: m, i => if c.1 = i then c.2 else Memory.read m i

/-- The memory without a cell at index `i`. -/
def Memory.erase (m : Memory) (i : Nat) : Memory := m.filter (fun c => c.1 != i)

/-- The memory with one cell put in its place in the rising order. -/
def Memory.put (i : Nat) (v : Byte) : Memory → Memory
  | [] => [(i, v)]
  | c :: m => if i < c.1 then (i, v) :: c :: m else c :: Memory.put i v m

/-- Write byte `v` at index `i`, keeping the canonical form. -/
def Memory.write (m : Memory) (i : Nat) (v : Byte) : Memory :=
  if v = Memory.unwritten then m.erase i else Memory.put i v (m.erase i)

/-- The canonical form: addresses strictly rising, no listed byte equal to `Memory.unwritten`. -/
def Memory.wf : Memory → Bool
  | [] => true
  | c :: m => c.2 != Memory.unwritten && m.all (fun d => c.1 < d.1) && Memory.wf m

/-- Every listed address is below `n`. -/
def Memory.below (m : Memory) (n : Nat) : Bool := m.all (fun c => c.1 < n)

end Sys2Proof
end

