-- ==== Sys2Proof/Machine/Construct.lean ====
section
/-! DEFINITION. The construction checks of a configuration (60_exceptions.md section 4, R850 to R857) with the
types of its fields (00_scope.md R10 to R16), and the lookups of a configuration that the rules use. -/

namespace Sys2Proof

/-! ### Lookups -/

/-- The dispatch table of a CPU and space (40_dispatch.md R400). -/
def Config.busMap (c : Config) : Cpu → Space → List AddressRange
  | .main, .mem => c.bus.mainMem
  | .main, .io => c.bus.mainIo
  | .sound, .mem => c.bus.soundMem
  | .sound, .io => c.bus.soundIo

/-- The length of a ROM region, 0 for a region the configuration does not have. -/
def Config.romSize (c : Config) (r : Nat) : Nat := ((c.bus.romImage[r]?).map RomImage.size).getD 0

/-- The length of a RAM region, 0 for a region the configuration does not have. -/
def Config.ramSize (c : Config) (r : Nat) : Nat := (c.bus.ramSize[r]?).getD 0

/-- `Rom(r, i)`, byte `i` of `cfg.romImage[r]` (00_scope.md R23). -/
def Config.rom (c : Config) (r i : Nat) : Byte := ((c.bus.romImage[r]?).map (fun m => m.bytes.read i)).getD 0

/-- `cfg.layouts[k]` (00_scope.md R12). -/
def Config.layout (c : Config) (k : Nat) : TileLayout := (c.layouts[k]?).getD default

/-- The layout a tilemap layer decodes with (00_scope.md R13). -/
def Config.layerLayout (c : Config) (L : Layer) : TileLayout := c.layout (c.layers.get L).layoutOf

/-- `cfg.cellCount[L] = cols[L] * rows[L]` (00_scope.md R13). -/
def Config.cellCount (c : Config) (L : Layer) : Nat := (c.layers.get L).cols * (c.layers.get L).rows

/-- Width in pixels of a layer's decoded surface, `SW` for BG (10_state.md R141, 44_compositor.md R605). -/
def Config.surfaceW (c : Config) (L : Layer) : Nat := (c.layers.get L).cols * (c.layerLayout L).tileWidth

/-- Height in pixels of a layer's decoded surface, `SH` for BG (10_state.md R141, 44_compositor.md R605). -/
def Config.surfaceH (c : Config) (L : Layer) : Nat := (c.layers.get L).rows * (c.layerLayout L).tileHeight

/-- Bytes of a layer's tilemap video RAM (30_encoding.md R351). -/
def Config.vramSize (c : Config) (L : Layer) : Nat := (c.layers.get L).planes * c.cellCount L

/-- Bytes of the sprite table (10_state.md R132). -/
def Config.sprramSize (c : Config) : Nat := c.sprite.spriteCount * c.sprite.entrySize

/-- The size of the backing store of a range (60_exceptions.md R851); a register range has none. -/
def Config.storeSize (c : Config) : RangeKind → Nat
  | .rom r _ _ => c.romSize r
  | .ram r _ _ => c.ramSize r
  | .vid (.tilemap L) _ => c.vramSize L
  | .vid .sprite _ => c.sprramSize
  | .reg _ _ _ => 0

/-- `off(r, a)` with bank latch value `bank` (40_dispatch.md R405); a register range has no offset. -/
def AddressRange.offset (r : AddressRange) (bankSize bank : Nat) (a : Addr) : Nat :=
  let into := a.toNat - r.start.toNat
  match r.kind with
  | .rom _ base banked => base + (if banked then bank * bankSize else 0) + into
  | .ram _ base banked => base + (if banked then bank * bankSize else 0) + into
  | .vid _ base => base + into
  | .reg _ _ _ => 0

/-! ### Register handlers (30_encoding.md R320) -/

/-- The write handlers of R320. -/
inductive WriteHandler where
  | nop
  | bankSelect
  | scrollXLo
  | scrollXHi
  | scrollYLo
  | scrollYHi
  | bgEnable
  | overdraw
  | intenMain
  | intenSound
  | soundCommand
  | soundAck
  | sndchipControl
  | sndchipData
deriving DecidableEq, Repr

/-- The read handlers of R320. -/
inductive ReadHandler where
  | openBus
  | soundCommand
  | input
deriving DecidableEq, Repr

/-- The write handler of a 5-bit code (30_encoding.md R320); a read code or an unassigned code has none. -/
def writeHandlerOf (code : BitVec 5) : Option WriteHandler :=
  match code.toNat with
  | 0x00 => some .nop
  | 0x01 => some .bankSelect
  | 0x02 => some .scrollXLo
  | 0x03 => some .scrollXHi
  | 0x04 => some .scrollYLo
  | 0x05 => some .scrollYHi
  | 0x06 => some .bgEnable
  | 0x07 => some .overdraw
  | 0x08 => some .intenMain
  | 0x09 => some .intenSound
  | 0x0A => some .soundCommand
  | 0x0B => some .soundAck
  | 0x0C => some .sndchipControl
  | 0x0D => some .sndchipData
  | _ => none

/-- The read handler of a 5-bit code (30_encoding.md R320); a write code or an unassigned code has none. -/
def readHandlerOf (code : BitVec 5) : Option ReadHandler :=
  match code.toNat with
  | 0x10 => some .openBus
  | 0x11 => some .soundCommand
  | 0x12 => some .input
  | _ => none

/-- Whether a write handler writes TSVB state other than the mailbox (60_exceptions.md R852). -/
def WriteHandler.writesState : WriteHandler → Bool
  | .nop | .soundCommand | .soundAck | .sndchipControl | .sndchipData => false
  | .bankSelect | .scrollXLo | .scrollXHi | .scrollYLo | .scrollYHi => true
  | .bgEnable | .overdraw | .intenMain | .intenSound => true

/-! ### The types of the fields (00_scope.md R10 to R16) -/

/-- A ROM image is a byte array: its sparse form is canonical and inside its length. -/
def RomImage.typed (m : RomImage) : Bool := m.bytes.wf && m.bytes.below m.size

/-- The table of an out-of-range function has 256 values in [0, bankCount) (R11). -/
def OutOfRangeFn.typed (f : OutOfRangeFn) (bankCount : Nat) : Bool :=
  match f with
  | .mask => true
  | .clamp => true
  | .table values => decide (values.length = 256) && values.all (fun v => decide (v < bankCount))

/-- The bank parameters have the types of R11. -/
def BankCfg.typed (b : BankCfg) : Bool :=
  decide (1 ≤ b.bankCount) && b.bankOutOfRange.typed b.bankCount && decide (b.bankResetValue < b.bankCount)

/-- The parameters of a tilemap layer have the types of R13. -/
def LayerCfg.typed (l : LayerCfg) : Bool :=
  decide (1 ≤ l.cols) && decide (1 ≤ l.rows) && (decide (l.planes = 1) || decide (l.planes = 2))

/-- The fields of a configuration have the types of 00_scope.md R10 to R16; the colour-index table derived from the
PROM has `colorIndexTableSize` entries (10_state.md R123). DEDUCED, safe (notes/assumptions/24.md). -/
def Config.typed (c : Config) : Bool :=
  c.bus.romImage.all RomImage.typed && c.bank.typed && c.layers.bg.typed && c.layers.fg.typed
    && decide (c.raster.derivedIndexTable.length = c.raster.colorIndexTableSize)

/-! ### The construction checks -/

/-- Ranges of one table: `start <= end`, sorted and pairwise non-overlapping (60_exceptions.md R850). -/
def tableOrdered : List AddressRange → Bool
  | [] => true
  | r :: rs =>
    decide (r.start.toNat ≤ r.stop.toNat) && rs.all (fun q => decide (r.stop.toNat < q.start.toNat))
      && tableOrdered rs

/-- Reach of one range (60_exceptions.md R851). The offset grows with the address and the bank, so its largest
value, at the last address and the last bank, decides for all of them. DEDUCED, safe (notes/assumptions/14.md). -/
def AddressRange.reaches (r : AddressRange) (c : Config) : Bool :=
  match r.kind with
  | .reg _ _ _ => true
  | k => decide (r.offset c.bank.bankSize (c.bank.bankCount - 1) r.stop < c.storeSize k)

/-- The handler codes of one range (60_exceptions.md R853). -/
def AddressRange.handlersAssigned (r : AddressRange) : Bool :=
  match r.kind with
  | .reg rh wh _ => (readHandlerOf rh).isSome && (writeHandlerOf wh).isSome
  | _ => true

/-- What a range lets its CPU write that the other CPU must not reach (60_exceptions.md R852). -/
inductive SharedThing where
  | ram (region : Nat)
  | video (buffer : VidBuffer)
  | handler (h : WriteHandler)
deriving DecidableEq, Repr

/-- The things of R852 one range reaches. -/
def AddressRange.reached (r : AddressRange) : List SharedThing :=
  match r.kind with
  | .rom _ _ _ => []
  | .ram region _ _ => [.ram region]
  | .vid b _ => [.video b]
  | .reg _ wh _ =>
    match writeHandlerOf wh with
    | some h => if h.writesState then [.handler h] else []
    | none => []

/-- Both tables of a CPU. -/
def Config.ranges (c : Config) (cpu : Cpu) : List AddressRange := c.busMap cpu .mem ++ c.busMap cpu .io

/-- No state but the mailbox is reached from both CPUs (60_exceptions.md R852). DEDUCED, unsafe if it lets a shared
store through (notes/assumptions/26.md). -/
def Config.unshared (c : Config) : Bool :=
  ((c.ranges .main).flatMap AddressRange.reached).all
    (fun x => !((c.ranges .sound).flatMap AddressRange.reached).contains x)

/-- Mailbox direction (60_exceptions.md R855): W_SOUND_COMMAND only on the main side, R_SOUND_COMMAND and
W_SOUND_ACK only on the sound side. -/
def AddressRange.mailboxSide (cpu : Cpu) (r : AddressRange) : Bool :=
  match r.kind with
  | .reg rh wh _ =>
    match cpu with
    | .main => readHandlerOf rh != some .soundCommand && writeHandlerOf wh != some .soundAck
    | .sound => writeHandlerOf wh != some .soundCommand
  | _ => true

/-- The largest entry of a list, 0 for the empty list. -/
def largest (l : List Nat) : Nat := l.foldl max 0

/-- The bit offset of R504 is inside the graphics ROM for every tile, plane, column and row (60_exceptions.md R854).
The offset grows with the tile and with each table entry, so the last tile and the largest entries decide for all of
them. DEDUCED, safe (notes/assumptions/14.md). -/
def TileLayout.inside (l : TileLayout) (romSize : Nat) : Bool :=
  decide (((l.tileCount - 1) * l.bytesPerTile * 8 + largest l.planeOffsets + largest l.xOffsets
    + largest l.yOffsets) / 8 < romSize)

/-- One layout descriptor (60_exceptions.md R854). -/
def TileLayout.valid (l : TileLayout) (c : Config) : Bool :=
  decide (1 ≤ l.tileWidth) && decide (1 ≤ l.tileHeight) && decide (1 ≤ l.tileCount)
    && decide (1 ≤ l.bitsPerPixel) && decide (l.bitsPerPixel ≤ 8)
    && decide (l.planeOffsets.length = l.bitsPerPixel) && decide (l.xOffsets.length = l.tileWidth)
    && decide (l.yOffsets.length = l.tileHeight) && l.inside (c.romSize l.gfxRegion)

/-- All layouts and the references to them (60_exceptions.md R854). -/
def Config.layoutsValid (c : Config) : Bool :=
  decide (1 ≤ c.layouts.length) && decide (c.layouts.length ≤ 8) && c.layouts.all (fun l => l.valid c)
    && decide (c.layers.bg.layoutOf < c.layouts.length) && decide (c.layers.fg.layoutOf < c.layouts.length)
    && c.sprite.spriteLayouts.all (fun k => decide (k < c.layouts.length))

/-- The colour-index range of a tilemap layer as (first, one past the last) (60_exceptions.md R856). -/
def Config.layerPartition (c : Config) (L : Layer) : Nat × Nat :=
  let l := c.layers.get L
  (l.colorBase, l.colorBase + (l.colorMask + 1) * 2 ^ (c.layerLayout L).bitsPerPixel)

/-- The largest `bitsPerPixel` of the sprite layouts, `n_SPR` (60_exceptions.md R856). -/
def Config.spriteBits (c : Config) : Nat :=
  largest (c.sprite.spriteLayouts.map (fun k => (c.layout k).bitsPerPixel))

/-- The colour-index range of the sprites (60_exceptions.md R856). -/
def Config.spritePartition (c : Config) : Nat × Nat :=
  (c.sprite.colorBase, c.sprite.colorBase + (c.sprite.fColor.mask + 1) * 2 ^ c.spriteBits)

/-- Two colour-index ranges share no index. -/
def disjointRanges (a b : Nat × Nat) : Bool := decide (a.2 ≤ b.1) || decide (b.2 ≤ a.1)

/-- Colour partitions (60_exceptions.md R856). -/
def Config.partitionsValid (c : Config) : Bool :=
  let bg := c.layerPartition .bg
  let fg := c.layerPartition .fg
  let spr := c.spritePartition
  disjointRanges bg fg && disjointRanges bg spr && disjointRanges fg spr
    && [bg, fg, spr].all (fun p => decide (p.2 ≤ c.raster.colorIndexTableSize))
    && decide (c.raster.bgBlankIndex < c.raster.colorIndexTableSize)

/-- Every sprite field descriptor of the configuration. -/
def SpriteCfg.fields (p : SpriteCfg) : List FieldDesc :=
  [p.fY, p.fXLo, p.fTileLo, p.fColor] ++ [p.fXHi, p.fTileHi, p.fFlipX, p.fFlipY, p.fBank, p.fEnable].filterMap id

/-- The attribute fields of one tilemap layer (60_exceptions.md R857). DEDUCED (notes/assumptions/26.md). -/
def LayerCfg.fieldsValid (l : LayerCfg) : Bool :=
  (l.flipXBit.all (fun b => decide (b ≤ 7))) && (l.flipYBit.all (fun b => decide (b ≤ 7)))
    && (decide (l.planes ≠ 1) || (decide (l.codeHiMask = 0) && decide (l.colorMask = 0)
      && l.flipXBit.isNone && l.flipYBit.isNone))

/-- Sprite and cell fields (60_exceptions.md R857). -/
def Config.fieldsValid (c : Config) : Bool :=
  c.sprite.fields.all (fun f => decide (f.byte < c.sprite.entrySize)) && !c.sprite.spriteLayouts.isEmpty
    && c.layers.bg.fieldsValid && c.layers.fg.fieldsValid
    && c.sprite.spriteLayouts.all (fun k => decide (c.raster.transPenSpr < 2 ^ (c.layout k).bitsPerPixel))
    && decide (c.raster.transPenFg < 2 ^ (c.layerLayout .fg).bitsPerPixel)

/-- Every check a CPU's two tables must pass (60_exceptions.md R850, R851, R853, R855). -/
def Config.tablesValid (c : Config) (cpu : Cpu) : Bool :=
  tableOrdered (c.busMap cpu .mem) && tableOrdered (c.busMap cpu .io)
    && (c.ranges cpu).all (fun r => r.reaches c && r.handlersAssigned && r.mailboxSide cpu)

/-- The configuration passes every construction check (60_exceptions.md section 4): a machine exists only then. -/
def Config.valid (c : Config) : Bool :=
  c.typed && c.tablesValid .main && c.tablesValid .sound && c.unshared && c.layoutsValid && c.partitionsValid
    && c.fieldsValid

end Sys2Proof
end

