-- ==== Sys2Proof/Machine/Fixture.lean ====
section
/-! DEFINITION. The configuration of the machine that `State.reset` gives: the spec's own fixture FX
(95_test_vectors.md section 2), the one complete configuration the spec states. It is no real machine's, and a
statement about every state holds for every configuration (DESIGN CHOICE, notes/assumptions/1.md). -/

namespace Sys2Proof

/-- Layout 0 of FX, `L2x2` (95_test_vectors.md section 2.1). -/
def Fixture.layoutSmall : TileLayout where
  tileWidth := 2
  tileHeight := 2
  tileCount := 4
  bitsPerPixel := 2
  planeOffsets := [4, 0]
  xOffsets := [0, 1]
  yOffsets := [0, 2]
  bytesPerTile := 1
  gfxRegion := 3

/-- Layout 1 of FX, `CAL16` (95_test_vectors.md section 2.1). -/
def Fixture.layoutCal : TileLayout where
  tileWidth := 16
  tileHeight := 16
  tileCount := 2
  bitsPerPixel := 2
  planeOffsets := [0x2000 * 8, 0]
  xOffsets := (List.range 16).map (fun x => if x < 8 then x else 64 + (x - 8))
  yOffsets := (List.range 16).map (fun y => if y < 8 then 8 * y else 128 + 8 * (y - 8))
  bytesPerTile := 32
  gfxRegion := 4

/-- A register range of one address. Section 2.3 gives `arg` for three of them only, and the others take 0, which their
handlers do not read (DESIGN CHOICE, safe, notes/assumptions/27.md). -/
def Fixture.reg (a : Addr) (rh wh : BitVec 5) (arg : Nat) : AddressRange :=
  { start := a, stop := a, kind := .reg rh wh arg }

/-- The bus of FX (95_test_vectors.md section 2.3). ROM regions: 0 `prog`, 1 `banked`, 2 `sndprog`, 3 `gfx0`,
4 `gfx1`; RAM regions: 0 `wram`, 1 `sram`. The section names the regions; their numbers are the model's (DESIGN CHOICE,
safe, notes/assumptions/27.md). -/
def Fixture.bus : BusCfg where
  mainMem :=
    [{ start := 0x0000, stop := 0x3FFF, kind := .rom 0 0 false },
     { start := 0x4000, stop := 0x5FFF, kind := .rom 1 0 true },
     { start := 0x8000, stop := 0x87FF, kind := .ram 0 0 false },
     { start := 0x9000, stop := 0x9007, kind := .vid (.tilemap .bg) 0 },
     { start := 0x9010, stop := 0x9011, kind := .vid (.tilemap .fg) 0 },
     { start := 0x9020, stop := 0x9027, kind := .vid .sprite 0 },
     Fixture.reg 0xA000 0x10 0x01 0,
     Fixture.reg 0xA001 0x10 0x02 0,
     Fixture.reg 0xA002 0x10 0x03 0,
     Fixture.reg 0xA003 0x10 0x04 0,
     Fixture.reg 0xA004 0x10 0x05 0,
     Fixture.reg 0xA005 0x10 0x06 0,
     Fixture.reg 0xA006 0x10 0x07 0,
     Fixture.reg 0xA007 0x10 0x08 0,
     Fixture.reg 0xA008 0x10 0x0A 0]
  mainIo := [Fixture.reg 0x0000 0x12 0x00 0]
  soundMem :=
    [{ start := 0x0000, stop := 0x0FFF, kind := .rom 2 0 false },
     { start := 0x1000, stop := 0x13FF, kind := .ram 1 0 false },
     Fixture.reg 0x2000 0x11 0x0B 0,
     Fixture.reg 0x2001 0x10 0x09 0]
  soundIo := [Fixture.reg 0x0010 0x10 0x0C 0, Fixture.reg 0x0011 0x10 0x0D 0]
  romImage :=
    [{ size := 0x4000, bytes := [(0, 0x3E), (1, 0x01)] },
     { size := 0x8000, bytes := [(0, 0x10), (0x2000, 0x11), (0x4000, 0x12), (0x6000, 0x13)] },
     { size := 0x1000, bytes := [(0, 0xC9)] },
     { size := 4, bytes := [(0, 0x1B), (1, 0xF0), (2, 0x0F)] },
     { size := 0x2040, bytes := [(0, 0x80), (0x2008, 0x01)] }]
  ramSize := [0x800, 0x400]
  openBusValue := 0xFF

/-- The bank parameters of FX (95_test_vectors.md section 2.2). -/
def Fixture.bank : BankCfg where
  bankCount := 4
  bankSize := 0x2000
  bankOutOfRange := .mask
  bankResetValue := 0
  equalBankEvent := .either

/-- The tilemap layers of FX (95_test_vectors.md section 2.2). -/
def Fixture.layers : Layered LayerCfg where
  bg :=
    { cols := 2, rows := 2, planes := 2, layoutOf := 0, codeHiShift := 0, codeHiMask := 0, colorShift := 0,
      colorMask := 3, flipXBit := some 6, flipYBit := some 7, colorBase := 0 }
  fg :=
    { cols := 2, rows := 1, planes := 1, layoutOf := 0, codeHiShift := 0, codeHiMask := 0, colorShift := 0,
      colorMask := 0, flipXBit := none, flipYBit := none, colorBase := 32 }

/-- The sprite parameters of FX (95_test_vectors.md section 2.2). -/
def Fixture.sprite : SpriteCfg where
  spriteCount := 2
  entrySize := 4
  fY := { byte := 0, shift := 0, mask := 0xFF }
  fXLo := { byte := 3, shift := 0, mask := 0xFF }
  fTileLo := { byte := 1, shift := 0, mask := 0xFF }
  fColor := { byte := 2, shift := 4, mask := 3 }
  fXHi := none
  fTileHi := none
  fFlipX := some { byte := 2, shift := 6, mask := 1 }
  fFlipY := some { byte := 2, shift := 7, mask := 1 }
  fBank := none
  fEnable := some { byte := 2, shift := 0, mask := 1 }
  spriteLayouts := [0]
  colorBase := 16
  xOrigin := 0
  yOrigin := 2
  ySense := .inverted

/-- The raster and colour parameters of FX (95_test_vectors.md section 2.2): palette entry `c<i>` is token `i`.
The section gives the results of `paletteDerive` but no colour-PROM contents: `promBytes` is left empty, and no command
reads it (DESIGN CHOICE, safe, notes/assumptions/27.md). -/
def Fixture.raster : RasterCfg where
  visW := 4
  visH := 2
  transPenSpr := 0
  transPenFg := 0
  bgBlankIndex := 0
  colorIndexTableSize := 48
  promBytes := []
  derivedPalette := (List.range 48).map RGB.mk
  derivedIndexTable := List.range 48

/-- The sequencer and mailbox parameters of FX (95_test_vectors.md section 2.2). -/
def Fixture.ints : IntCfg where
  seqKindMain := .nmi
  seqKindSound := .irq
  mailboxRaisesInt := true
  mailboxIntKind := .irq

/-- The fixture configuration FX (95_test_vectors.md section 2). -/
def Config.fx : Config where
  bus := Fixture.bus
  bank := Fixture.bank
  layouts := [Fixture.layoutSmall, Fixture.layoutCal]
  layers := Fixture.layers
  sprite := Fixture.sprite
  raster := Fixture.raster
  ints := Fixture.ints

end Sys2Proof
end

