-- ==== Sys2Proof/Machine/State.lean ====
section
/-! DEFINITION. The state of the TSVB (10_state.md), every element of it as plain data, with the stops of the
model and the state at power-on. -/

namespace Sys2Proof.Machine

/-- Why a step of the model can stop with a fault. The TSVB's own two faults (60_exceptions.md R800) are not
here: the spec says what they do, so they are next states with `State.fault` set. -/
inductive Fault where
  /-- Raised by BUSRD and BUSWR when the router's offset lies outside the backing store of the range
  (60_exceptions.md R851 says no machine built from a checked configuration gets there). Safe: it stops where
  the spec gives no store to reach, and `Sys2Proof.Safety` names the invariant under which it never happens. -/
  | outsideStore
deriving DecidableEq, Repr

/-- Why the model gives an input no meaning. -/
inductive Refusal where
  /-- Raised by `exec` alone, for an instruction that has no meaning yet (none is left). Safe. -/
  | notModelled (mnemonic : String)
  /-- Raised by every command on a configuration that fails a construction check: "no machine exists, no command
  is performed" (60_exceptions.md section 4, 93_implementation_defined.md item 25). Safe. -/
  | configRejected
deriving DecidableEq, Repr

/-- The TSVB's fault reasons (60_exceptions.md R800). -/
inductive FaultReason where
  | illegalCommand
  | videoNotStarted
deriving DecidableEq, Repr

/-- The port of a sound-chip write (10_state.md R150). -/
inductive SoundPort where
  | control
  | data
deriving DecidableEq, Repr

/-- An output event (10_state.md R150). -/
inductive Event where
  | intReq (cpu : Cpu) (kind : IntKind)
  | programBank (bank : Nat)
  | soundChipWrite (arg : Nat) (port : SoundPort) (value : Byte)
  | present (surface : Surface RGB)
deriving DecidableEq, Repr

/-- The result a command returns to its issuer (10_state.md R151). -/
inductive CmdResult where
  | ok
  | failed
  | fault
  | halted
  | byte (value : Byte)
  | block (pixels : Surface PixelRec)
deriving DecidableEq, Repr

/-- The elements that exist only while the video hardware is started (10_state.md R140 to R143). An element of
`acc` is a colour index, or `none` for TRANSPARENT. -/
structure VideoState where
  dirty : Layered (List Bool)
  cache : Layered (Surface PixelRec)
  out : Surface Nat
  acc : Surface (Option Nat)
deriving DecidableEq, Repr

/-- The byte planes of one tilemap layer's video RAM: `code` is plane 0, `attr` plane 1 (10_state.md R131). -/
structure Planes where
  code : Memory
  attr : Memory
deriving DecidableEq, Repr

/-- The state of the TSVB (10_state.md). `cfg` is the configuration the machine was built from, which no command
writes (00_scope.md R22). The last five fields are the model's own interface: `result` is the result of the last
command (R151), `commands` the words the host has issued and the TSVB has not yet performed (00_scope.md R5),
`inputs` and `allocs` the external draws the host has already supplied (R17), and `draws` the number of the next
free value. DESIGN CHOICE for these five (notes/assumptions/2.md, 7.md, 15.md, 23.md). -/
structure State where
  cfg : Config
  /-- The BankLatch (R110). -/
  bank : Nat
  /-- Low byte of the horizontal scroll (R111). -/
  scrollXLo : Byte
  /-- High bit of the horizontal scroll (R111). -/
  scrollXHi : BitVec 1
  /-- Low byte of the vertical scroll (R112). -/
  scrollYLo : Byte
  /-- High bit of the vertical scroll (R112). -/
  scrollYHi : BitVec 1
  /-- The background-enable register (R113). -/
  bgEnable : Bool
  /-- The sprite-overdraw mode (R114). -/
  overdraw : Bool
  /-- The enable flag of sequencer 0, `seqEnable[0]` (R115). -/
  seqEnableMain : Bool
  /-- The enable flag of sequencer 1, `seqEnable[1]` (R115). -/
  seqEnableSound : Bool
  /-- The mailbox latch (R117). -/
  mbLatch : Byte
  /-- The mailbox pending bit, also the level output of R153 (R118). -/
  mbPending : Bool
  /-- The palette (R123). -/
  palette : List RGB
  /-- The colour-index table (R123). -/
  colorIndexTable : List Nat
  /-- Whether PALLOAD has derived the palette (R123). -/
  paletteLoaded : Bool
  /-- The RAM regions, by region number (R130). -/
  ram : List Memory
  /-- The tilemap video RAM (R131). -/
  vram : Layered Planes
  /-- The sprite table (R132). -/
  sprram : Memory
  /-- The video buffers, present exactly while `videoOn` (R122, R140 to R143). -/
  video : Option VideoState
  /-- The output event list, append-only (R150). -/
  events : List Event
  /-- The sticky fault mark (R160). -/
  fault : Option FaultReason
  result : Option CmdResult
  commands : List Word
  inputs : List Byte
  allocs : List Bool
  draws : Nat
deriving DecidableEq, Repr

/-- The machine right after it is built from configuration `c`: the "at power-on" column of 10_state.md R180
(70_reset_and_hazards.md R901). Every element the column calls unspecified holds the value
notes/assumptions/4.md names (DESIGN CHOICE). -/
def State.powerOn (c : Config) : State where
  cfg := c
  bank := c.bank.bankResetValue
  scrollXLo := 0
  scrollXHi := 0
  scrollYLo := 0
  scrollYHi := 0
  bgEnable := false
  overdraw := false
  seqEnableMain := false
  seqEnableSound := false
  mbLatch := 0
  mbPending := false
  palette := []
  colorIndexTable := List.replicate c.raster.colorIndexTableSize 0
  paletteLoaded := false
  ram := c.bus.ramSize.map (fun _ => [])
  vram := { bg := { code := [], attr := [] }, fg := { code := [], attr := [] } }
  sprram := []
  video := none
  events := []
  fault := none
  result := none
  commands := []
  inputs := []
  allocs := []
  draws := 0

/-- The machine after reset: power-on of the spec's fixture configuration (notes/assumptions/1.md). -/
def State.reset : State := State.powerOn Config.fx

end Sys2Proof.Machine
end

