-- ==== Sys2Proof/Machine/Ops.lean ====
section
/-! DEFINITION. The operations shared by the commands: surfaces and their loops, performing and ending a command,
raising a fault, events, draws, the router's stores, the bank select and the mailbox. -/

namespace Sys2Proof.Machine

/-! ### Surfaces (00_scope.md R30) -/

/-- The surface of `h` rows and `w` columns whose element at row `y`, column `x` is `f y x`. -/
def Surface.build {α : Type} (h w : Nat) (f : Nat → Nat → α) : Surface α :=
  (List.range h).map fun y => (List.range w).map fun x => f y x

/-- The element at row `y`, column `x`, if the surface has it. -/
def Surface.at? {α : Type} (S : Surface α) (y x : Nat) : Option α := (S[y]?).bind fun row => row[x]?

/-- The element at row `y`, column `x`, or `d` outside the surface. -/
def Surface.getD {α : Type} (S : Surface α) (y x : Nat) (d : α) : α := (Surface.at? S y x).getD d

/-- `S[y][x] <- v`; nothing outside the surface. -/
def Surface.put {α : Type} (S : Surface α) (y x : Nat) (v : α) : Surface α :=
  S.modify y fun row => row.set x v

/-- `for y in [0, h): for x in [0, w): f y x` (00_scope.md R25). -/
def forPixels {σ : Type} (h w : Nat) (f : Nat → Nat → σ → σ) (s : σ) : σ :=
  (List.range h).foldl (fun s y => (List.range w).foldl (fun s x => f y x s) s) s

/-- `S` is a surface of `h` rows by `w` columns. -/
def Surface.sized {α : Type} (S : Surface α) (h w : Nat) : Bool :=
  decide (S.length = h) && S.all fun row => decide (row.length = w)

/-! ### Performing a command -/

/-- End a command with result `r` (10_state.md R151). -/
def finish (r : CmdResult) (s : State) : Host.Outcome State Fault Refusal := .next { s with result := some r }

/-- Perform one command: on a configuration that fails a construction check there is no machine (60_exceptions.md
section 4); after a fault the command changes nothing and returns `halted` (R810); otherwise `body` runs. DEDUCED,
safe (notes/assumptions/8.md, 10.md). -/
def perform (s : State) (body : State → Host.Outcome State Fault Refusal) : Host.Outcome State Fault Refusal :=
  if s.cfg.valid then
    if s.fault = none then body s else finish .halted s
  else .refused .configRejected

/-- `raise Fault(reason)` from the state before the command: the reason is recorded, the result is `fault`, and
nothing else changes (00_scope.md R25, 60_exceptions.md R810). -/
def raiseFault (r : FaultReason) (s : State) : Host.Outcome State Fault Refusal :=
  finish .fault { s with fault := some r }

/-- The code of a fault reason (60_exceptions.md R800). -/
def FaultReason.code : FaultReason → Nat
  | .illegalCommand => 1
  | .videoNotStarted => 2

/-- `emit e` (00_scope.md R24). -/
def State.emit (s : State) (e : Event) : State := { s with events := s.events ++ [e] }

/-- `S.videoOn` (10_state.md R122). DEDUCED, safe (notes/assumptions/11.md). -/
def State.videoOn (s : State) : Bool := s.video.isSome

/-! ### External draws (00_scope.md R17) -/

/-- `draw inputDraw(arg)`: the next value the host has supplied, or a free value (R17, 40_dispatch.md R446). DESIGN
CHOICE, safe (notes/assumptions/7.md). -/
def State.drawInput (s : State) (arg : Nat) : Byte × State :=
  match s.inputs with
  | v :: rest => (v, { s with inputs := rest })
  | [] => (Config.inputDraw arg s.draws, { s with draws := s.draws + 1 })

/-- `draw allocDraw`: the next value the host has supplied, or a free value (R17, 44_compositor.md R660). DESIGN
CHOICE, safe (notes/assumptions/7.md). -/
def State.drawAlloc (s : State) : Bool × State :=
  match s.allocs with
  | v :: rest => (v, { s with allocs := rest })
  | [] => (Config.allocDraw s.draws, { s with draws := s.draws + 1 })

/-! ### The router's stores (40_dispatch.md section 1) -/

/-- `find(c, s, a)`: the first range that covers `a` (40_dispatch.md R401). -/
def findRange (c : Config) (cpu : Cpu) (space : Space) (a : Addr) : Option AddressRange :=
  (c.busMap cpu space).find? fun r => decide (r.start.toNat ≤ a.toNat) && decide (a.toNat ≤ r.stop.toNat)

/-- The byte of a backing store an access reaches. -/
inductive Loc where
  | rom (region off : Nat)
  | ram (region off : Nat)
  | tile (L : Layer) (plane cell : Nat)
  | sprite (off : Nat)
deriving DecidableEq, Repr

/-- The plane and cell of offset `o` of a layer's video RAM (30_encoding.md R351). -/
def planeCell (c : Config) (L : Layer) (o : Nat) : Nat × Nat := (o / c.cellCount L, o % c.cellCount L)

/-- The byte that address `a` of range `r` reaches with the current bank (40_dispatch.md R405 to R408), or none when
the offset is outside the backing store, which R851 excludes. DEDUCED, safe (notes/assumptions/9.md). -/
def State.locate (s : State) (r : AddressRange) (a : Addr) : Option Loc :=
  let off := r.offset s.cfg.bank.bankSize s.bank a
  if off < s.cfg.storeSize r.kind then
    match r.kind with
    | .rom region _ _ => some (.rom region off)
    | .ram region _ _ => some (.ram region off)
    | .vid (.tilemap L) _ => some (.tile L (planeCell s.cfg L off).1 (planeCell s.cfg L off).2)
    | .vid .sprite _ => some (.sprite off)
    | .reg _ _ _ => none
  else none

/-- Plane `p` of a layer's video RAM (10_state.md R131). -/
def Planes.plane (v : Planes) (p : Nat) : Memory := if p = 0 then v.code else v.attr

/-- Write one byte of plane `p` (10_state.md R131). -/
def Planes.write (v : Planes) (p i : Nat) (b : Byte) : Planes :=
  if p = 0 then { v with code := v.code.write i b } else { v with attr := v.attr.write i b }

/-- `S.ram[r][i]` (10_state.md R130). -/
def State.ramByte (s : State) (r i : Nat) : Byte := ((s.ram[r]?).getD []).read i

/-- `S.vram[L][p][i]` (10_state.md R131). -/
def State.vramByte (s : State) (L : Layer) (p i : Nat) : Byte := ((s.vram.get L).plane p).read i

/-- `S.sprram[i]` (10_state.md R132). -/
def State.sprramByte (s : State) (i : Nat) : Byte := s.sprram.read i

/-- Read one byte of a store (40_dispatch.md R406 to R408). -/
def State.readLoc (s : State) : Loc → Byte
  | .rom r o => s.cfg.rom r o
  | .ram r o => s.ramByte r o
  | .tile L p i => s.vramByte L p i
  | .sprite o => s.sprramByte o

/-! ### Bank select (41_bank.md) -/

/-- `cfg.bankOutOfRange(value)` (00_scope.md R11, 41_bank.md R453). -/
def bankOutOfRange (b : BankCfg) (value : Byte) : Nat :=
  match b.bankOutOfRange with
  | .mask => value.toNat % b.bankCount
  | .clamp => b.bankCount - 1
  | .table values => (values[value.toNat]?).getD 0

/-- The latch value a select of `value` gives (41_bank.md R450, R453). -/
def bankTarget (c : Config) (value : Byte) : Nat :=
  if value.toNat < c.bank.bankCount then value.toNat else bankOutOfRange c.bank value

/-- `EqualSelect`: whether a select of the mapped bank emits the event; `either` admits both (41_bank.md R451).
DESIGN CHOICE, safe (notes/assumptions/18.md). -/
def State.equalSelect (s : State) (bank : Nat) : State :=
  match s.cfg.bank.equalBankEvent with
  | .emit => s.emit (.programBank bank)
  | .skip => s
  | .either =>
    { s with
      events := s.events ++ (if Config.freeBit s.draws then [.programBank bank] else [])
      draws := s.draws + 1 }

/-- `selectBank(value)` (41_bank.md R450). -/
def State.selectBank (s : State) (value : Byte) : State :=
  let new := bankTarget s.cfg value
  if new ≠ s.bank then { s with bank := new }.emit (.programBank new)
  else { s with bank := new }.equalSelect new

/-! ### Mailbox (46_mailbox.md) -/

/-- `writeCommand(byte)`: the latch and the pending bit, then the request (46_mailbox.md R750, R751). -/
def State.writeCommand (s : State) (value : Byte) : State :=
  let t := { s with mbLatch := value, mbPending := true }
  if s.cfg.ints.mailboxRaisesInt then t.emit (.intReq .sound s.cfg.ints.mailboxIntKind) else t

/-- `readCommand()` (46_mailbox.md R752). -/
def State.readCommand (s : State) : Byte := s.mbLatch

/-- The sound-side clear of the pending bit (46_mailbox.md R754). -/
def State.clearPending (s : State) : State := { s with mbPending := false }

end Sys2Proof.Machine
end

