-- ==== Sys2Proof/Machine/Bank.lean ====
section
/-! DEFINITION. The Bank Switch Unit: SELBANK (41_bank.md). -/

namespace Sys2Proof.Machine

/-- SELBANK (41_bank.md R450). -/
def execSelbank (value : Byte) (s : State) : Host.Outcome State Fault Refusal :=
  perform s fun s => finish .ok (s.selectBank value)

end Sys2Proof.Machine
end

