-- ==== Sys2Proof/Machine/Operands.lean ====
section
/-! DEFINITION. The operand forms of the data formats: sprite entries (30_encoding.md R340 to R342, 44_compositor.md
R623), tilemap cells (R350), the scroll values (44_compositor.md R604) and the colour offset (42_decoder.md R512). -/

namespace Sys2Proof.Machine

/-- Entry `j` of the sprite table, its `entrySize` bytes (30_encoding.md R342). -/
def State.spriteEntry (s : State) (j : Nat) : List Byte :=
  (List.range s.cfg.sprite.entrySize).map fun b => s.sprramByte (j * s.cfg.sprite.entrySize + b)

/-- `F(e) = (e[F.byte] >> F.shift) & F.mask` (30_encoding.md R340). -/
def FieldDesc.read (f : FieldDesc) (e : List Byte) : Nat := (((e[f.byte]?).getD 0).toNat >>> f.shift) &&& f.mask

/-- An optional descriptor, reading as `absent` when it is absent (30_encoding.md R340). -/
def readOptional (f : Option FieldDesc) (absent : Nat) (e : List Byte) : Nat :=
  match f with
  | some d => FieldDesc.read d e
  | none => absent

/-- The assembled fields of a sprite entry (30_encoding.md R341). -/
structure SpriteFields where
  y : Nat
  x : Nat
  tile : Nat
  color : Nat
  flipX : Bool
  flipY : Bool
  bank : Nat
  enable : Bool
deriving DecidableEq, Repr

/-- The fields of entry `e` (30_encoding.md R341). -/
def spriteFields (p : SpriteCfg) (e : List Byte) : SpriteFields where
  y := FieldDesc.read p.fY e
  x := FieldDesc.read p.fXLo e ||| (readOptional p.fXHi 0 e <<< 8)
  tile := FieldDesc.read p.fTileLo e ||| (readOptional p.fTileHi 0 e <<< 8)
  color := FieldDesc.read p.fColor e
  flipX := readOptional p.fFlipX 0 e != 0
  flipY := readOptional p.fFlipY 0 e != 0
  bank := readOptional p.fBank 0 e
  enable := readOptional p.fEnable 1 e != 0

/-- `SpriteOrigin(e)` as (sy, sx), signed (44_compositor.md R623). PRESUMED by the spec (G4), unsafe
(notes/assumptions/16.md). -/
def spriteOrigin (p : SpriteCfg) (f : SpriteFields) : Int × Int :=
  (match p.ySense with
    | .inverted => p.yOrigin - f.y
    | .direct => f.y + p.yOrigin,
   f.x + p.xOrigin)

/-- The assembled fields of a tilemap cell (30_encoding.md R350). -/
structure CellFields where
  tile : Nat
  color : Nat
  flipX : Bool
  flipY : Bool
deriving DecidableEq, Repr

/-- Bit `b` of the attribute byte, or 0 for an absent bit number (30_encoding.md R350). -/
def attrBit (attr : Nat) : Option Nat → Bool
  | some b => attr.testBit b
  | none => false

/-- The attribute byte of cell `i`, 0 for a one-plane layer (30_encoding.md R350). -/
def State.cellAttr (s : State) (L : Layer) (i : Nat) : Nat :=
  if (s.cfg.layers.get L).planes = 2 then (s.vramByte L 1 i).toNat else 0

/-- The fields of cell `i` of layer `L` (30_encoding.md R350). -/
def State.cellFields (s : State) (L : Layer) (i : Nat) : CellFields :=
  let l := s.cfg.layers.get L
  let attr := s.cellAttr L i
  { tile := (s.vramByte L 0 i).toNat ||| (((attr >>> l.codeHiShift) &&& l.codeHiMask) <<< 8)
    color := (attr >>> l.colorShift) &&& l.colorMask
    flipX := attrBit attr l.flipXBit
    flipY := attrBit attr l.flipYBit }

/-- `scrollX = (S.scrollXHi << 8) | S.scrollXLo` (44_compositor.md R604). -/
def State.scrollX (s : State) : Nat := (s.scrollXHi.toNat <<< 8) ||| s.scrollXLo.toNat

/-- `scrollY = (S.scrollYHi << 8) | S.scrollYLo` (44_compositor.md R604). -/
def State.scrollY (s : State) : Nat := (s.scrollYHi.toNat <<< 8) ||| s.scrollYLo.toNat

/-- The first colour index of a colour code: `base + color * 2^bitsPerPixel` (42_decoder.md R512). PRESUMED by the
spec (G3), unsafe (notes/assumptions/16.md). -/
def colorOffset (base color bitsPerPixel : Nat) : Nat := base + color * 2 ^ bitsPerPixel

end Sys2Proof.Machine
end

