-- ==== Sys2Proof/Machine/Flags.lean ====
section
/-! DEFINITION. The status bits of the TSVB (10_state.md R101): it has no condition codes; its status bits are the
dirty flags, the mailbox pending bit, the video-started and palette-loaded bits and the fault mark. This file
holds the computations over the dirty flags, the one-bit register writes, and the sequencer state derived from
its enable bit. -/

namespace Sys2Proof.Machine

/-! ### Dirty flags (43_dirty.md) -/

/-- `S.dirty[L][i]` (10_state.md R140). -/
def VideoState.isDirty (v : VideoState) (L : Layer) (i : Nat) : Bool := ((v.dirty.get L)[i]?).getD false

/-- `S.dirty[L][i] <- b` (10_state.md R140). -/
def VideoState.setDirty (v : VideoState) (L : Layer) (i : Nat) (b : Bool) : VideoState :=
  { v with dirty := v.dirty.set L ((v.dirty.get L).set i b) }

/-- `MarkDirty(L, i)` (43_dirty.md R551). -/
def State.markDirty (s : State) (L : Layer) (i : Nat) : State :=
  { s with video := s.video.map fun v => v.setDirty L (i % s.cfg.cellCount L) true }

/-- Every flag of both layers set (43_dirty.md R566, 44_compositor.md R660). -/
def allDirty (c : Config) : Layered (List Bool) :=
  { bg := List.replicate (c.cellCount .bg) true, fg := List.replicate (c.cellCount .fg) true }

/-- `ForceAllDirty()` (43_dirty.md R566). -/
def State.forceAllDirty (s : State) : State :=
  { s with video := s.video.map fun v => { v with dirty := allDirty s.cfg } }

/-! ### One-bit registers (40_dispatch.md section 4) -/

/-- `d[0]`; bits 7..1 are ignored (40_dispatch.md R433 to R439). -/
def bit0 (d : Byte) : Bool := d.getLsbD 0

/-! ### Sequencer state (45_sequencer.md R701, 10_state.md R116) -/

/-- The states of a sequencer. -/
inductive SeqState where
  | idle
  | armed
  | fired
deriving DecidableEq, Repr

/-- `S.seqEnable[q]` (10_state.md R115). -/
def State.seqEnable (s : State) : Sequencer → Bool
  | .main => s.seqEnableMain
  | .sound => s.seqEnableSound

/-- The resting state of sequencer `q`: Idle or Armed by its enable bit (10_state.md R116). DEDUCED, safe
(notes/assumptions/11.md). -/
def State.seqState (s : State) (q : Sequencer) : SeqState := if s.seqEnable q then .armed else .idle

/-- What a tick does to the resting state: Armed to Fired, Idle to Idle (45_sequencer.md R701, R710). -/
def SeqState.onTick : SeqState → SeqState
  | .idle => .idle
  | .armed => .fired
  | .fired => .fired

/-- The CPU a sequencer interrupts (45_sequencer.md R700). -/
def Sequencer.target : Sequencer → Cpu
  | .main => .main
  | .sound => .sound

/-- `cfg.seqKind[q]` (00_scope.md R16). -/
def seqKind (c : Config) : Sequencer → IntKind
  | .main => c.ints.seqKindMain
  | .sound => c.ints.seqKindSound

end Sys2Proof.Machine
end

