-- ==== Sys2Proof/Machine/Decoder.lean ====
section
/-! DEFINITION. The Tile/Sprite Decoder: DECODE and the pure function it calls (42_decoder.md). -/

namespace Sys2Proof.Machine

/-- `GfxBit(g, o)`: bit offset `o` of a graphics region, most significant bit of each byte first (42_decoder.md
R505). PRESUMED by the spec (G1), unsafe (notes/assumptions/16.md). -/
def gfxBit (c : Config) (g o : Nat) : Nat := ((c.rom g (o / 8)).toNat >>> (7 - o % 8)) &&& 1

/-- The bit offset of plane `p`, column `xi`, row `yi` of a tile whose first bit is `base` (42_decoder.md R504). -/
def bitOffset (l : TileLayout) (base p xi yi : Nat) : Nat :=
  base + (l.planeOffsets[p]?).getD 0 + (l.xOffsets[xi]?).getD 0 + (l.yOffsets[yi]?).getD 0

/-- The pen of column `xi`, row `yi` of the tile at `base`: plane 0 is the most significant bit (42_decoder.md R500,
R506). PRESUMED by the spec (G2), unsafe (notes/assumptions/16.md). -/
def penAt (c : Config) (l : TileLayout) (base xi yi : Nat) : Nat :=
  (List.range l.bitsPerPixel).foldl
    (fun pen p => pen ||| (gfxBit c l.gfxRegion (bitOffset l base p xi yi) <<< (l.bitsPerPixel - 1 - p))) 0

/-- The index `i` of `n` counted from the other end when `flip` is set (42_decoder.md R503). -/
def flipIndex (flip : Bool) (n i : Nat) : Nat := if flip then n - 1 - i else i

/-- `DecodeTile(k, t, c, fx, fy)` (42_decoder.md R500 to R507). -/
def decodeTile (cfg : Config) (k t c : Nat) (fx fy : Bool) : Surface PixelRec :=
  let l := cfg.layout k
  let base := (t % l.tileCount) * l.bytesPerTile * 8
  Surface.build l.tileHeight l.tileWidth fun y x =>
    let pen := penAt cfg l base (flipIndex fx l.tileWidth x) (flipIndex fy l.tileHeight y)
    { pen := pen, index := c + pen }

/-- DECODE (42_decoder.md R501): returns the block; a layout the configuration does not have makes the word
illegal (30_encoding.md R305). -/
def execDecode (layout : BitVec 3) (tile : BitVec 12) (coloff : BitVec 11) (fx fy : Bool) (s : State) :
    Host.Outcome State Fault Refusal :=
  perform s fun s =>
    if (Instr.decode layout tile coloff fx fy).wellFormed s.cfg then
      finish (.block (decodeTile s.cfg layout.toNat tile.toNat coloff.toNat fx fy)) s
    else raiseFault .illegalCommand s

end Sys2Proof.Machine
end

