-- ==== Sys2Proof/Machine/Dirty.lean ====
section
/-! DEFINITION. The Dirty-Region Tracker: MARKDIRTY, FLUSHDIRTY, INVALALL and PALLOAD (43_dirty.md). -/

namespace Sys2Proof.Machine

/-- The pixel block a cell decodes to from the current video RAM (43_dirty.md R561, the first line). -/
def State.cellBlock (s : State) (L : Layer) (i : Nat) : Surface PixelRec :=
  let l := s.cfg.layers.get L
  let f := s.cellFields L i
  decodeTile s.cfg l.layoutOf f.tile (colorOffset l.colorBase f.color (s.cfg.layerLayout L).bitsPerPixel)
    f.flipX f.flipY

/-- `CellDecode(L, i)`: re-decode cell `i` of layer `L` into the layer's cache (43_dirty.md R561). -/
def State.cellDecode (s : State) (L : Layer) (i : Nat) (cache : Surface PixelRec) : Surface PixelRec :=
  let k := s.cfg.layerLayout L
  let cols := (s.cfg.layers.get L).cols
  let B := s.cellBlock L i
  forPixels k.tileHeight k.tileWidth
    (fun y x S => Surface.put S (i / cols * k.tileHeight + y) (i % cols * k.tileWidth + x) (Surface.getD B y x default))
    cache

/-- One turn of the flush loop: a dirty cell is re-decoded and then cleaned (43_dirty.md R560, R562). -/
def State.flushCell (s : State) (L : Layer) (v : VideoState) (i : Nat) : VideoState :=
  if v.isDirty L i then
    { v with cache := v.cache.set L (s.cellDecode L i (v.cache.get L)) }.setDirty L i false
  else v

/-- The loop of FLUSHDIRTY over the cells of layer `L`, in ascending order (43_dirty.md R560, R562). -/
def State.flushLayer (s : State) (L : Layer) (v : VideoState) : VideoState :=
  (List.range (s.cfg.cellCount L)).foldl (s.flushCell L) v

/-- MARKDIRTY (43_dirty.md R550). -/
def execMarkdirty (L : Layer) (cell : BitVec 16) (s : State) : Host.Outcome State Fault Refusal :=
  perform s fun s => finish .ok (s.markDirty L cell.toNat)

/-- FLUSHDIRTY (43_dirty.md R560). -/
def execFlushdirty (L : Layer) (s : State) : Host.Outcome State Fault Refusal :=
  perform s fun s =>
    match s.video with
    | none => raiseFault .videoNotStarted s
    | some v => finish .ok { s with video := some (s.flushLayer L v) }

/-- INVALALL (43_dirty.md R565). -/
def execInvalall (s : State) : Host.Outcome State Fault Refusal :=
  perform s fun s => finish .ok s.forceAllDirty

/-- The palette derived from the colour PROM takes its place and every cell becomes dirty (43_dirty.md R570). -/
def State.loadPalette (s : State) : State :=
  { s with
    palette := s.cfg.raster.derivedPalette
    colorIndexTable := s.cfg.raster.derivedIndexTable
    paletteLoaded := true }.forceAllDirty

/-- PALLOAD (43_dirty.md R570). -/
def execPalload (s : State) : Host.Outcome State Fault Refusal :=
  perform s fun s => finish .ok s.loadPalette

end Sys2Proof.Machine
end

