-- ==== Sys2Proof/Machine/Compositor.lean ====
section
/-! DEFINITION. The Raster Compositor: RENDER with its four stages, VIDSTART and VIDSTOP (44_compositor.md). -/

namespace Sys2Proof.Machine

/-! ### Plotting -/

/-- `Plot(T, y, x, v)`: nothing outside the visible raster (44_compositor.md R603, R624). `ink` turns a colour
index into an element of the target: itself for OUT, an opaque element for ACC. -/
def plot {α : Type} (r : RasterCfg) (ink : Nat → α) (T : Surface α) (y x : Int) (v : Nat) : Surface α :=
  if 0 ≤ x ∧ x < r.visW ∧ 0 ≤ y ∧ y < r.visH then Surface.put T y.toNat x.toNat (ink v) else T

/-- Plot every pixel of the first `h` rows and `w` columns of block `B` whose pen is not `trans`, with the block's
corner at raster position (`sy`, `sx`) (44_compositor.md R621, R622, R630). -/
def plotBlock {α : Type} (r : RasterCfg) (ink : Nat → α) (trans h w : Nat) (B : Surface PixelRec) (sy sx : Int)
    (T : Surface α) : Surface α :=
  forPixels h w
    (fun y x T =>
      let p := Surface.getD B y x default
      if p.pen ≠ trans then plot r ink T (sy + y) (sx + x) p.index else T)
    T

/-! ### The stages of a frame -/

/-- The colour index the background shows at raster row `y`, column `x`: the decoded surface, scrolled with
toroidal wraparound (44_compositor.md R610). -/
def State.backgroundIndex (s : State) (cache : Surface PixelRec) (y x : Nat) : Nat :=
  (Surface.getD cache ((y + s.scrollY) % s.cfg.surfaceH .bg) ((x + s.scrollX) % s.cfg.surfaceW .bg) default).index

/-- BackgroundPass (44_compositor.md R610, R611). -/
def State.backgroundPass (s : State) (v : VideoState) : VideoState :=
  let r := s.cfg.raster
  if s.bgEnable then
    let v := s.flushLayer .bg v
    { v with out := Surface.build r.visH r.visW fun y x => s.backgroundIndex v.cache.bg y x }
  else { v with out := Surface.build r.visH r.visW fun _ _ => r.bgBlankIndex }

/-- The layout of a sprite with bank value `bank` (44_compositor.md R621). -/
def spriteLayout (p : SpriteCfg) (bank : Nat) : Nat :=
  (p.spriteLayouts[bank % p.spriteLayouts.length]?).getD 0

/-- `DrawSprite(T, e)` with the fields of entry `e` (44_compositor.md R621). -/
def drawSprite {α : Type} (c : Config) (ink : Nat → α) (f : SpriteFields) (T : Surface α) : Surface α :=
  let k := spriteLayout c.sprite f.bank
  let l := c.layout k
  let B := decodeTile c k f.tile (colorOffset c.sprite.colorBase f.color l.bitsPerPixel) f.flipX f.flipY
  let o := spriteOrigin c.sprite f
  plotBlock c.raster ink c.raster.transPenSpr l.tileHeight l.tileWidth B o.1 o.2 T

/-- One turn of the sprite loop: an enabled entry is drawn (44_compositor.md R620). -/
def State.spriteTurn {α : Type} (s : State) (ink : Nat → α) (T : Surface α) (j : Nat) : Surface α :=
  let f := spriteFields s.cfg.sprite (s.spriteEntry j)
  if f.enable then drawSprite s.cfg ink f T else T

/-- `SpritePass(T)`: entries in ascending number (44_compositor.md R620, R625). -/
def State.spritePass {α : Type} (s : State) (ink : Nat → α) (T : Surface α) : Surface α :=
  (List.range s.cfg.sprite.spriteCount).foldl (s.spriteTurn ink) T

/-- The loop of `ForegroundPass(T)` over the decoded text surface, unscrolled (44_compositor.md R630, R631). -/
def State.textPass {α : Type} (s : State) (ink : Nat → α) (cache : Surface PixelRec) (T : Surface α) : Surface α :=
  plotBlock s.cfg.raster ink s.cfg.raster.transPenFg (s.cfg.surfaceH .fg) (s.cfg.surfaceW .fg) cache 0 0 T

/-- The sprite stage, into ACC in overdraw mode and into OUT otherwise (44_compositor.md R602, R620). -/
def State.spriteStage (s : State) (v : VideoState) : VideoState :=
  if s.overdraw then { v with acc := s.spritePass some v.acc } else { v with out := s.spritePass id v.out }

/-- The foreground stage: flush FG, then draw the text into the same target (44_compositor.md R602, R630). -/
def State.foregroundStage (s : State) (v : VideoState) : VideoState :=
  let v := s.flushLayer .fg v
  if s.overdraw then { v with acc := s.textPass some v.cache.fg v.acc }
  else { v with out := s.textPass id v.cache.fg v.out }

/-- The first step of PresentPass: in overdraw mode every non-transparent element of ACC replaces the output pixel
(44_compositor.md R635). -/
def State.compositeStage (s : State) (v : VideoState) : VideoState :=
  if s.overdraw then
    { v with
      out := Surface.build s.cfg.raster.visH s.cfg.raster.visW fun y x =>
        (Surface.getD v.acc y x none).getD (Surface.getD v.out y x 0) }
  else v

/-- The palette entry of colour index `i`, if the palette is loaded, the index is in the colour-index table and
the table's entry is in the palette (44_compositor.md R650). -/
def State.paletteEntry (s : State) (i : Nat) : Option RGB :=
  if s.paletteLoaded && decide (i < s.cfg.raster.colorIndexTableSize) then
    (s.colorIndexTable[i]?).bind fun e => s.palette[e]?
  else none

/-- The presented surface; a pixel without a palette entry is unspecified (44_compositor.md R650). -/
def State.presentSurface (s : State) (out : Surface Nat) : Surface RGB :=
  Surface.build s.cfg.raster.visH s.cfg.raster.visW fun y x =>
    (s.paletteEntry (Surface.getD out y x 0)).getD (Config.freeRGB s.draws y x)

/-- The video buffers after the stages of one frame (44_compositor.md R600, R601). -/
def State.frame (s : State) (v : VideoState) : VideoState :=
  s.compositeStage (s.foregroundStage (s.spriteStage (s.backgroundPass v)))

/-- The state after one frame: the buffers, and the Present event (44_compositor.md R600, R650). -/
def State.renderFrame (s : State) (v : VideoState) : State :=
  let v := s.frame v
  { s with
    video := some v
    events := s.events ++ [.present (s.presentSurface v.out)]
    draws := s.draws + 1 }

/-- RENDER (44_compositor.md R600). -/
def execRender (s : State) : Host.Outcome State Fault Refusal :=
  perform s fun s =>
    match s.video with
    | none => raiseFault .videoNotStarted s
    | some v => finish .ok (s.renderFrame v)

/-! ### Video start and stop -/

/-- An accumulation buffer that is all TRANSPARENT (44_compositor.md R640). -/
def clearAcc (c : Config) : Surface (Option Nat) := Surface.build c.raster.visH c.raster.visW fun _ _ => none

/-- The unspecified contents of one layer's cache after VIDSTART (44_compositor.md R660). -/
def freeCache (c : Config) (n : Nat) (L : Layer) : Surface PixelRec :=
  Surface.build (c.surfaceH L) (c.surfaceW L) fun y x => Config.freePixel n L y x

/-- The buffers VIDSTART creates: every flag set, ACC clear, caches and OUT unspecified (44_compositor.md R660). -/
def newVideo (c : Config) (n : Nat) : VideoState where
  dirty := allDirty c
  cache := { bg := freeCache c n .bg, fg := freeCache c n .fg }
  out := Surface.build c.raster.visH c.raster.visW fun y x => Config.freeIndex n y x
  acc := clearAcc c

/-- `VideoStop()` (44_compositor.md R662). -/
def State.videoStop (s : State) : State := { s with video := none }

/-- The video start after the old buffers are gone, `ok` being the drawn success of the allocation
(44_compositor.md R660, 60_exceptions.md R830). -/
def State.videoStart (s : State) (ok : Bool) : State :=
  { s with
    video := if ok then some (newVideo s.cfg s.draws) else none
    draws := s.draws + 1 }

/-- VIDSTART (44_compositor.md R660, 60_exceptions.md R830, R831). -/
def execVidstart (s : State) : Host.Outcome State Fault Refusal :=
  perform s fun s =>
    let d := s.videoStop.drawAlloc
    finish (if d.1 then .ok else .failed) (d.2.videoStart d.1)

/-- VIDSTOP (44_compositor.md R662). -/
def execVidstop (s : State) : Host.Outcome State Fault Refusal :=
  perform s fun s => finish .ok s.videoStop

end Sys2Proof.Machine
end

