-- ==== Sys2Proof/Machine/Handlers.lean ====
section
/-! DEFINITION. The 17 register handlers of the router (30_encoding.md R320, 40_dispatch.md R430 to R446). A write
handler takes the range's `arg` and the data byte `d`. -/

namespace Sys2Proof.Machine

/-! ### Write handlers -/

/-- W_NOP (40_dispatch.md R430). -/
def State.wNop (s : State) (_arg : Nat) (_d : Byte) : State := s

/-- W_BANK_SELECT (40_dispatch.md R431). -/
def State.wBankSelect (s : State) (_arg : Nat) (d : Byte) : State := s.selectBank d

/-- W_SCROLLX_LO (40_dispatch.md R432). -/
def State.wScrollXLo (s : State) (_arg : Nat) (d : Byte) : State := { s with scrollXLo := d }

/-- W_SCROLLX_HI (40_dispatch.md R433). -/
def State.wScrollXHi (s : State) (_arg : Nat) (d : Byte) : State := { s with scrollXHi := BitVec.ofBool (bit0 d) }

/-- W_SCROLLY_LO (40_dispatch.md R434). -/
def State.wScrollYLo (s : State) (_arg : Nat) (d : Byte) : State := { s with scrollYLo := d }

/-- W_SCROLLY_HI (40_dispatch.md R435). -/
def State.wScrollYHi (s : State) (_arg : Nat) (d : Byte) : State := { s with scrollYHi := BitVec.ofBool (bit0 d) }

/-- W_BG_ENABLE (40_dispatch.md R436). -/
def State.wBgEnable (s : State) (_arg : Nat) (d : Byte) : State := { s with bgEnable := bit0 d }

/-- W_OVERDRAW: a 1-to-0 write clears ACC while the video is started (40_dispatch.md R437, 44_compositor.md R640). -/
def State.wOverdraw (s : State) (_arg : Nat) (d : Byte) : State :=
  { s with
    overdraw := bit0 d
    video := if s.overdraw && !bit0 d then s.video.map (fun v => { v with acc := clearAcc s.cfg }) else s.video }

/-- W_INTEN_MAIN (40_dispatch.md R438). -/
def State.wIntenMain (s : State) (_arg : Nat) (d : Byte) : State := { s with seqEnableMain := bit0 d }

/-- W_INTEN_SOUND (40_dispatch.md R439). -/
def State.wIntenSound (s : State) (_arg : Nat) (d : Byte) : State := { s with seqEnableSound := bit0 d }

/-- W_SOUND_COMMAND (40_dispatch.md R440). -/
def State.wSoundCommand (s : State) (_arg : Nat) (d : Byte) : State := s.writeCommand d

/-- W_SOUND_ACK (40_dispatch.md R441). -/
def State.wSoundAck (s : State) (_arg : Nat) (_d : Byte) : State := s.clearPending

/-- W_SNDCHIP_CONTROL (40_dispatch.md R442). -/
def State.wSndchipControl (s : State) (arg : Nat) (d : Byte) : State := s.emit (.soundChipWrite arg .control d)

/-- W_SNDCHIP_DATA (40_dispatch.md R443). -/
def State.wSndchipData (s : State) (arg : Nat) (d : Byte) : State := s.emit (.soundChipWrite arg .data d)

/-- `WriteHandler(wh, arg, d)` (40_dispatch.md R420, 30_encoding.md R320). -/
def State.writeHandler (s : State) (h : WriteHandler) (arg : Nat) (d : Byte) : State :=
  match h with
  | .nop => s.wNop arg d
  | .bankSelect => s.wBankSelect arg d
  | .scrollXLo => s.wScrollXLo arg d
  | .scrollXHi => s.wScrollXHi arg d
  | .scrollYLo => s.wScrollYLo arg d
  | .scrollYHi => s.wScrollYHi arg d
  | .bgEnable => s.wBgEnable arg d
  | .overdraw => s.wOverdraw arg d
  | .intenMain => s.wIntenMain arg d
  | .intenSound => s.wIntenSound arg d
  | .soundCommand => s.wSoundCommand arg d
  | .soundAck => s.wSoundAck arg d
  | .sndchipControl => s.wSndchipControl arg d
  | .sndchipData => s.wSndchipData arg d

/-! ### Read handlers -/

/-- R_OPEN_BUS (40_dispatch.md R444). -/
def State.rOpenBus (s : State) (_arg : Nat) : Byte × State := (s.cfg.bus.openBusValue, s)

/-- R_SOUND_COMMAND (40_dispatch.md R445). -/
def State.rSoundCommand (s : State) (_arg : Nat) : Byte × State := (s.readCommand, s)

/-- R_INPUT (40_dispatch.md R446). -/
def State.rInput (s : State) (arg : Nat) : Byte × State := s.drawInput arg

/-- `ReadHandler(rh, arg)` (40_dispatch.md R410, 30_encoding.md R320). -/
def State.readHandler (s : State) (h : ReadHandler) (arg : Nat) : Byte × State :=
  match h with
  | .openBus => s.rOpenBus arg
  | .soundCommand => s.rSoundCommand arg
  | .input => s.rInput arg

end Sys2Proof.Machine
end

