-- ==== Sys2Proof/Machine/Bus.lean ====
section
/-! DEFINITION. The Address Dispatch Router's two commands, BUSRD and BUSWR (40_dispatch.md). -/

namespace Sys2Proof.Machine

/-- Write one byte of a store; a tilemap byte also marks its cell dirty, a ROM byte ignores the write
(40_dispatch.md R406, R407, R421). -/
def State.writeLoc (s : State) (l : Loc) (v : Byte) : State :=
  match l with
  | .rom _ _ => s
  | .ram r o => { s with ram := s.ram.modify r (fun m => m.write o v) }
  | .tile L p i => { s with vram := s.vram.set L ((s.vram.get L).write p i v) }.markDirty L i
  | .sprite o => { s with sprram := s.sprram.write o v }

/-- The router's read of one byte (40_dispatch.md R410). A handler code that construction rejects has no handler
(60_exceptions.md R853). -/
def State.memRead (s : State) (cpu : Cpu) (space : Space) (a : Addr) : Host.Outcome State Fault Refusal :=
  match findRange s.cfg cpu space a with
  | none => finish (.byte s.cfg.bus.openBusValue) s
  | some r =>
    match r.kind with
    | .reg rh _ arg =>
      match readHandlerOf rh with
      | some h => finish (.byte (s.readHandler h arg).1) (s.readHandler h arg).2
      | none => .refused .configRejected
    | _ =>
      match s.locate r a with
      | some l => finish (.byte (s.readLoc l)) s
      | none => .fault .outsideStore

/-- The router's write of one byte (40_dispatch.md R420). -/
def State.memWrite (s : State) (cpu : Cpu) (space : Space) (a : Addr) (v : Byte) : Host.Outcome State Fault Refusal :=
  match findRange s.cfg cpu space a with
  | none => finish .ok s
  | some r =>
    match r.kind with
    | .reg _ wh arg =>
      match writeHandlerOf wh with
      | some h => finish .ok (s.writeHandler h arg v)
      | none => .refused .configRejected
    | _ =>
      match s.locate r a with
      | some l => finish .ok (s.writeLoc l v)
      | none => .fault .outsideStore

/-- BUSRD (40_dispatch.md R410). -/
def execBusrd (cpu : Cpu) (space : Space) (addr : Addr) (s : State) : Host.Outcome State Fault Refusal :=
  perform s fun s => s.memRead cpu space addr

/-- BUSWR (40_dispatch.md R420). -/
def execBuswr (cpu : Cpu) (space : Space) (addr : Addr) (data : Byte) (s : State) :
    Host.Outcome State Fault Refusal :=
  perform s fun s => s.memWrite cpu space addr data

end Sys2Proof.Machine
end

