-- ==== Sys2Proof/Machine/Mailbox.lean ====
section
/-! DEFINITION. The Inter-Processor Mailbox: MBWR, MBRD and MBCLR (46_mailbox.md). -/

namespace Sys2Proof.Machine

/-- MBWR (46_mailbox.md R750). -/
def execMbwr (value : Byte) (s : State) : Host.Outcome State Fault Refusal :=
  perform s fun s => finish .ok (s.writeCommand value)

/-- MBRD (46_mailbox.md R752). -/
def execMbrd (s : State) : Host.Outcome State Fault Refusal :=
  perform s fun s => finish (.byte s.readCommand) s

/-- MBCLR (46_mailbox.md R754). -/
def execMbclr (s : State) : Host.Outcome State Fault Refusal :=
  perform s fun s => finish .ok s.clearPending

end Sys2Proof.Machine
end

