-- ==== Sys2Proof/Machine/Reset.lean ====
section
/-! DEFINITION. RESET (70_reset_and_hazards.md section 1). -/

namespace Sys2Proof.Machine

/-- The registers whose value after RESET the spec calls unspecified take fresh free values (70_reset_and_hazards.md
R900, R903). DESIGN CHOICE, safe (notes/assumptions/6.md). -/
def State.drawRegisters (s : State) : State :=
  { s with
    mbLatch := Config.freeByte s.draws
    scrollXLo := Config.freeByte (s.draws + 1)
    scrollXHi := BitVec.ofBool (Config.freeBit (s.draws + 2))
    scrollYLo := Config.freeByte (s.draws + 3)
    scrollYHi := BitVec.ofBool (Config.freeBit (s.draws + 4))
    bgEnable := Config.freeBit (s.draws + 5)
    overdraw := Config.freeBit (s.draws + 6)
    seqEnableMain := Config.freeBit (s.draws + 7)
    seqEnableSound := Config.freeBit (s.draws + 8)
    draws := s.draws + 9 }

/-- What RESET does (70_reset_and_hazards.md R900, R902 to R904). -/
def State.resetMachine (s : State) : State :=
  ({ s with bank := s.cfg.bank.bankResetValue, mbPending := false }.emit
    (.programBank s.cfg.bank.bankResetValue)).drawRegisters.forceAllDirty

/-- RESET (70_reset_and_hazards.md R900). -/
def execReset (s : State) : Host.Outcome State Fault Refusal :=
  perform s fun s => finish .ok s.resetMachine

end Sys2Proof.Machine
end

