-- ==== Sys2Proof/Machine/Sequencer.lean ====
section
/-! DEFINITION. The Interrupt/Timing Sequencer: TICK (45_sequencer.md). -/

namespace Sys2Proof.Machine

/-- One tick of sequencer `q`: it emits its request exactly when the tick finds it armed, and is back at its
resting state when the command ends (45_sequencer.md R701, R710). -/
def State.tick (s : State) (q : Sequencer) : State :=
  match (s.seqState q).onTick with
  | .fired => s.emit (.intReq (Sequencer.target q) (seqKind s.cfg q))
  | _ => s

/-- TICK (45_sequencer.md R710). -/
def execTick (q : Sequencer) (s : State) : Host.Outcome State Fault Refusal :=
  perform s fun s => finish .ok (s.tick q)

end Sys2Proof.Machine
end

