-- ==== Sys2Proof/Machine/Dispatch.lean ====
section
/-! DEFINITION. One arm per command (30_encoding.md R302). -/

namespace Sys2Proof.Machine

def exec (i : Instr) (s : State) : Host.Outcome State Fault Refusal :=
  match i with
  | .busrd cpu space addr => Sys2Proof.Machine.execBusrd cpu space addr s
  | .buswr cpu space addr data => Sys2Proof.Machine.execBuswr cpu space addr data s
  | .selbank value => Sys2Proof.Machine.execSelbank value s
  | .decode layout tile coloff fx fy => Sys2Proof.Machine.execDecode layout tile coloff fx fy s
  | .markdirty layer cell => Sys2Proof.Machine.execMarkdirty layer cell s
  | .flushdirty layer => Sys2Proof.Machine.execFlushdirty layer s
  | .invalall => Sys2Proof.Machine.execInvalall s
  | .palload => Sys2Proof.Machine.execPalload s
  | .render => Sys2Proof.Machine.execRender s
  | .tick seq => Sys2Proof.Machine.execTick seq s
  | .mbwr value => Sys2Proof.Machine.execMbwr value s
  | .mbrd => Sys2Proof.Machine.execMbrd s
  | .mbclr => Sys2Proof.Machine.execMbclr s
  | .vidstart => Sys2Proof.Machine.execVidstart s
  | .vidstop => Sys2Proof.Machine.execVidstop s
  | .reset => Sys2Proof.Machine.execReset s

end Sys2Proof.Machine
end

