-- ==== Sys2Proof/Machine/Fetch.lean ====
section
/-! DEFINITION. How the next command reaches the TSVB: the host issues command words, and the TSVB performs them
one at a time in the order issued (00_scope.md R5, 20_memory.md R260). It has no program counter (10_state.md
R102). -/

namespace Sys2Proof.Machine

/-- The word the host issued next, and the state without it; none when the host has issued nothing more. -/
def State.nextCommand (s : State) : Option (Word × State) :=
  match s.commands with
  | [] => none
  | w :: rest => some (w, { s with commands := rest })

/-- The host issues `w` as the very next command. -/
def State.issueNext (s : State) (w : Word) : State := { s with commands := w :: s.commands }

end Sys2Proof.Machine
end

