-- ==== Sys2Proof/Machine/Step.lean ====
section
/-! DEFINITION. One step: the next command the host has issued is performed to completion (00_scope.md R5). -/

namespace Sys2Proof.Machine

/-- One step. A legal word runs its command; an illegal word raises IllegalCommand before any other effect
(60_exceptions.md R801, R811); with no command issued the TSVB does nothing, since it has no clock
(70_reset_and_hazards.md R930; DESIGN CHOICE, notes/assumptions/2.md). -/
def step (s : State) : Host.Outcome State Fault Refusal :=
  match s.nextCommand with
  | none => .next s
  | some (w, t) =>
    match legalCommand t.cfg w with
    | some i => exec i t
    | none => perform t (raiseFault .illegalCommand)

/-- `s` with the command word `w` (its bits above `nbits` zero) issued as the very next command. -/
def State.withFetchWord (s : State) (nbits w : Nat) : State := s.issueNext (BitVec.ofNat 32 (w % 2 ^ nbits))

end Sys2Proof.Machine
end

