-- ==== Sys2Proof/Safety.lean ====
section
/-! DEFINITION. What counts as a sound machine and a safe run, in the terms the statements use: a machine that can
perform commands, the well-formed machine, the cache invariant, the illegal words, a list of commands performed in
order, and the value the spec gives each pixel of a frame. -/

namespace Sys2Proof.Machine

/-- The machine exists and performs commands: its configuration passes the construction checks (60_exceptions.md
section 4) and no fault has been recorded (R810). -/
structure State.Ready (s : State) : Prop where
  cfgValid : s.cfg.valid = true
  noFault : s.fault = none

/-- The video buffers have the sizes of 10_state.md R140 to R143. -/
def VideoState.sized (v : VideoState) (c : Config) : Bool :=
  decide (v.dirty.bg.length = c.cellCount .bg) && decide (v.dirty.fg.length = c.cellCount .fg)
    && Surface.sized v.cache.bg (c.surfaceH .bg) (c.surfaceW .bg)
    && Surface.sized v.cache.fg (c.surfaceH .fg) (c.surfaceW .fg)
    && Surface.sized v.out c.raster.visH c.raster.visW && Surface.sized v.acc c.raster.visH c.raster.visW

/-- One memory in canonical form with every address inside its size. -/
def Memory.fits (m : Memory) (n : Nat) : Bool := Memory.wf m && Memory.below m n

/-- The video RAM of one layer is canonical, each plane inside its cells (10_state.md R131). -/
def Planes.fits (p : Planes) (cells : Nat) : Bool := Memory.fits p.code cells && Memory.fits p.attr cells

/-- The well-formed machine: a checked configuration, the BankLatch in its range (10_state.md R110), every memory
in canonical form inside its size (R130 to R132), every video buffer of its size (R140 to R143). -/
structure State.Inv (s : State) : Prop where
  cfgValid : s.cfg.valid = true
  bankRange : s.bank < s.cfg.bank.bankCount
  ramRegions : s.ram.length = s.cfg.bus.ramSize.length
  ramFits : ∀ r m, s.ram[r]? = some m → Memory.fits m (s.cfg.ramSize r) = true
  vramFits : ∀ L, Planes.fits (s.vram.get L) (s.cfg.cellCount L) = true
  sprramFits : Memory.fits s.sprram s.cfg.sprramSize = true
  videoSized : ∀ v, s.video = some v → v.sized s.cfg = true

/-- The cache shows cell `i` of layer `L` as its current video RAM decodes (10_state.md R144, 43_dirty.md R561). -/
def State.cellShown (s : State) (v : VideoState) (L : Layer) (i : Nat) : Prop :=
  let k := s.cfg.layerLayout L
  let cols := (s.cfg.layers.get L).cols
  ∀ y x, y < k.tileHeight → x < k.tileWidth →
    Surface.at? (v.cache.get L) (i / cols * k.tileHeight + y) (i % cols * k.tileWidth + x)
      = Surface.at? (s.cellBlock L i) y x

/-- The cache invariant: while the video is started, every clean cell is shown (10_state.md R144). -/
def State.CacheInv (s : State) : Prop :=
  ∀ v, s.video = some v → ∀ L i, i < s.cfg.cellCount L → v.isDirty L i = false → s.cellShown v L i

/-- The words 30_encoding.md R305 calls illegal, format by format (R301; 60_exceptions.md R801). -/
def IllegalWord (c : Config) (w : Word) : Prop :=
  match bits w 31 28 with
  | 0x0 => True
  | 0x1 => bits w 25 24 ≠ 0 ∨ bits w 23 16 ≠ 0
  | 0x2 => bits w 25 24 ≠ 0
  | 0x3 => bits w 27 8 ≠ 0
  | 0x4 => c.layouts.length ≤ bits w 25 23
  | 0x5 => 2 ≤ bits w 27 26 ∨ bits w 25 16 ≠ 0
  | 0x6 => 2 ≤ bits w 27 26 ∨ bits w 25 16 ≠ 0 ∨ bits w 15 0 ≠ 0
  | 0xA => bits w 26 0 ≠ 0
  | 0xB => bits w 27 8 ≠ 0
  | 0xE => bits w 27 1 ≠ 0
  | _ => bits w 27 0 ≠ 0

/-- Perform a list of commands in order, stopping at the first stop. -/
def execAll : List Instr → State → Host.Outcome State Fault Refusal
  | [], s => .next s
  | i :: rest, s =>
    match exec i s with
    | .next t => execAll rest t
    | .fault r => .fault r
    | .refused r => .refused r

/-- The interrupt requests of an event list (10_state.md R150). -/
def intReqs (es : List Event) : List Event :=
  es.filter fun e => match e with
    | .intReq _ _ => true
    | _ => false

/-- A command that writes the mailbox latch: MBWR, RESET, and BUSWR through W_SOUND_COMMAND (10_state.md R117). -/
def mayWriteLatch (c : Config) : Instr → Bool
  | .mbwr _ => true
  | .reset => true
  | .buswr cpu sp a _ =>
    match (findRange c cpu sp a).map AddressRange.kind with
    | some (.reg _ wh _) => decide (writeHandlerOf wh = some .soundCommand)
    | _ => false
  | _ => false

/-! ### The value of one pixel of a frame, from the video RAM and sprite RAM alone -/

/-- The record layer `L`'s surface holds at row `y`, column `x` when every cell is decoded afresh (10_state.md
R141, 43_dirty.md R561). -/
def State.freshPixel (s : State) (L : Layer) (y x : Nat) : PixelRec :=
  let k := s.cfg.layerLayout L
  Surface.getD (s.cellBlock L (y / k.tileHeight * (s.cfg.layers.get L).cols + x / k.tileWidth))
    (y % k.tileHeight) (x % k.tileWidth) default

/-- The colour index the background stage gives raster row `y`, column `x` (44_compositor.md R610, R611). -/
def State.backgroundPixel (s : State) (y x : Nat) : Nat :=
  if s.bgEnable then
    (s.freshPixel .bg ((y + s.scrollY) % s.cfg.surfaceH .bg) ((x + s.scrollX) % s.cfg.surfaceW .bg)).index
  else s.cfg.raster.bgBlankIndex

/-- The colour index sprite entry `j` puts on raster row `y`, column `x`, if it is enabled, its block covers the
pixel, and the block's pen there is not transparent (44_compositor.md R620 to R624). -/
def State.spritePixel (s : State) (j y x : Nat) : Option Nat :=
  let f := spriteFields s.cfg.sprite (s.spriteEntry j)
  let k := spriteLayout s.cfg.sprite f.bank
  let l := s.cfg.layout k
  let B := decodeTile s.cfg k f.tile (colorOffset s.cfg.sprite.colorBase f.color l.bitsPerPixel) f.flipX f.flipY
  let o := spriteOrigin s.cfg.sprite f
  let by' := (y : Int) - o.1
  let bx := (x : Int) - o.2
  if f.enable = true ∧ 0 ≤ by' ∧ by' < l.tileHeight ∧ 0 ≤ bx ∧ bx < l.tileWidth then
    let p := Surface.getD B by'.toNat bx.toNat default
    if p.pen ≠ s.cfg.raster.transPenSpr then some p.index else none
  else none

/-- The colour index the first `n` sprite entries leave on a pixel: the highest-numbered entry that draws it wins
(44_compositor.md R625). -/
def State.topSprite (s : State) (y x : Nat) : Nat → Option Nat
  | 0 => none
  | n + 1 => (s.spritePixel n y x).or (s.topSprite y x n)

/-- The colour index the text layer puts on raster row `y`, column `x`, if its surface covers the pixel with a
pen that is not transparent (44_compositor.md R630, R631). -/
def State.textPixel (s : State) (y x : Nat) : Option Nat :=
  if y < s.cfg.surfaceH .fg ∧ x < s.cfg.surfaceW .fg then
    let p := s.freshPixel .fg y x
    if p.pen ≠ s.cfg.raster.transPenFg then some p.index else none
  else none

/-- What the sprite and text stages plot on a pixel: text over sprites (44_compositor.md R630). -/
def State.plottedPixel (s : State) (y x : Nat) : Option Nat :=
  (s.textPixel y x).or (s.topSprite y x s.cfg.sprite.spriteCount)

end Sys2Proof.Machine
end

