-- ==== Sys2Proof/Certificates/Slice0/Obligations.lean ====
section
/-! DEFINITION. The statements about the TSVB model. Each docstring names the rules of spec/ it formalises.
`State.Ready` is a machine that exists and has not faulted; `State.Inv` is the well-formed machine, which every step
keeps (`Obligations.StepKeepsWellFormed`) and power-on has (`Obligations.PowerOnIsWellFormed`). -/

open Sys2Proof Sys2Proof.Machine

/-! ### Encoding (30_encoding.md) -/

/-- R301, R302, R304: decoding the word of a command gives that command back, every operand at every value. Rests on
the spec's own decision D2 (92_eei_decisions.md). -/
def Obligations.DecodeEncodeRoundTrip : Prop :=
  ∀ i : Instr, decodeWord (encode i) = some i

/-- R306: a word is illegal or decodes to exactly one command with its fields, and no other word decodes to it. The
spec itself derives R306. -/
def Obligations.LegalWordsDecodeUniquely : Prop :=
  ∀ (c : Config) (w : Word),
    (legalCommand c w = none ∨ ∃! i, legalCommand c w = some i) ∧
    ∀ i, legalCommand c w = some i →
      encode i = w ∧ i.wellFormed c = true ∧ ∀ w', legalCommand c w' = some i → w' = w

/-- R305, R801: the illegal words are exactly those R305 lists, and a step on one raises IllegalCommand with no other
effect. Rests on the spec's own decision D50 (92_eei_decisions.md). The queue of issued words is the model's
(notes/assumptions/2.md). -/
def Obligations.IllegalWordsRaiseIllegalCommand : Prop :=
  (∀ (c : Config) (w : Word), legalCommand c w = none ↔ IllegalWord c w) ∧
  ∀ (s : State) (w : Word) (rest : List Word), s.Ready → s.commands = w :: rest → IllegalWord s.cfg w →
    step s = .next { s with commands := rest, fault := some .illegalCommand, result := some .fault }

/-- R310: example words of the assembler table decode to the commands they stand for. Rests on the spec's own decision
D49 (92_eei_decisions.md). -/
def Obligations.ExampleWordsDecode : Prop :=
  decodeWord 0x10004000 = some (.busrd .main .mem 0x4000) ∧
  decodeWord 0x2C420010 = some (.buswr .sound .io 0x0010 0x42) ∧
  decodeWord 0x44810012 = some (.decode 1 0x012 0x010 true false) ∧
  decodeWord 0x54000005 = some (.markdirty .fg 5) ∧
  decodeWord 0xA8000000 = some (.tick .sound) ∧
  decodeWord 0xE0000001 = some .vidstart

/-! ### The step, faults and the construction checks -/

/-- R5, R300: a step whose next word is a legal command performs that command, from the state without the word. Rests
on the spec's own decisions D2, D48 (92_eei_decisions.md). The queue of issued words is the model's
(notes/assumptions/2.md). -/
def Obligations.StepRunsDecodedCommand : Prop :=
  ∀ (s : State) (w : Word) (rest : List Word) (i : Instr), s.commands = w :: rest →
    legalCommand s.cfg w = some i → step s = exec i { s with commands := rest }

/-- R810: a fault leaves exactly the state before the command but for the recorded reason and the result, and every
later command only returns `halted`. Rests on the spec's own decision D40 (92_eei_decisions.md). The queue and the
kept result are the model's (notes/assumptions/2.md, 15.md). -/
def Obligations.FaultIsPreciseAndHalts : Prop :=
  (∀ (s t : State) (r : FaultReason), s.Ready → step s = .next t → t.fault = some r →
    t = { s with commands := s.commands.tail, fault := some r, result := some .fault }) ∧
  ∀ (s : State) (r : FaultReason), s.cfg.valid = true → s.fault = some r → s.commands ≠ [] →
    step s = .next { s with commands := s.commands.tail, result := some .halted }

/-- 60_exceptions.md section 4: on a configuration that fails a construction check no command is performed. That this
is a refusal is notes/assumptions/10.md. -/
def Obligations.RejectedConfigurationRunsNothing : Prop :=
  ∀ (i : Instr) (s : State), s.cfg.valid = false → exec i s = .refused .configRejected

/-- R802: with the video stopped RENDER and FLUSHDIRTY raise VideoNotStarted, and every other legal command but
VIDSTART leaves the video stopped and does not fault. Rests on the spec's own decision D34 (92_eei_decisions.md). -/
def Obligations.StoppedVideoFaultsOnlyRenderAndFlush : Prop :=
  ∀ s : State, s.Ready → s.video = none →
    exec .render s = .next { s with fault := some .videoNotStarted, result := some .fault } ∧
    (∀ L, exec (.flushdirty L) s = .next { s with fault := some .videoNotStarted, result := some .fault }) ∧
    ∀ (i : Instr) (t : State), i.wellFormed s.cfg = true → i ≠ .render → (∀ L, i ≠ .flushdirty L) → i ≠ .vidstart →
      exec i s = .next t → t.video = none ∧ t.fault = none

/-! ### Invariants -/

/-- R803, R851: from a well-formed machine every command, and every step, answers a next state. Rests on the spec's
own decision D51 (92_eei_decisions.md). The stops it rules out are notes/assumptions/9.md and 10.md. -/
def Obligations.WellFormedMachineNeverStops : Prop :=
  ∀ s : State, s.Inv → (∀ i : Instr, ∃ t, exec i s = .next t) ∧ ∃ t, step s = .next t

/-- R110, R130 to R132, R140 to R143: every step keeps the machine well-formed. Rests on the spec's own decisions D19,
D29 (92_eei_decisions.md). -/
def Obligations.StepKeepsWellFormed : Prop :=
  ∀ s t : State, s.Inv → step s = .next t → t.Inv

/-- R180, R901: the machine at power-on is well-formed and has the cache invariant, on every checked configuration,
and the configuration of `State.reset` (notes/assumptions/1.md) is checked. Rests on the spec's own decisions D12, D41
(92_eei_decisions.md). Their unspecified elements have the values of notes/assumptions/4.md and 5.md, on which no
clause rests. -/
def Obligations.PowerOnIsWellFormed : Prop :=
  (∀ c : Config, c.valid = true → (State.powerOn c).Inv ∧ (State.powerOn c).CacheInv ∧ (State.powerOn c).Ready) ∧
  State.reset = State.powerOn Config.fx ∧ Config.fx.valid = true

/-- R180, R901: the elements whose power-on value the spec gives. Rests on the spec's own decisions D12, D41
(92_eei_decisions.md). -/
def Obligations.PowerOnState : Prop :=
  ∀ c : Config,
    (State.powerOn c).cfg = c ∧ (State.powerOn c).videoOn = false ∧ (State.powerOn c).paletteLoaded = false ∧
    (State.powerOn c).fault = none ∧ (State.powerOn c).events = [] ∧
    (State.powerOn c).bank = c.bank.bankResetValue ∧ (State.powerOn c).mbPending = false

/-- R144: every step preserves the cache invariant. The spec itself derives R144. -/
def Obligations.StepKeepsCacheInvariant : Prop :=
  ∀ s t : State, s.Inv → s.CacheInv → step s = .next t → t.CacheInv

/-- R22, R110 to R118, R122, R123, R130 to R133, R140 to R143, R150, R160: which commands can write each element of
10_state.md. No command writes the configuration; PALLOAD alone writes the palette; BUSWR alone the memories; BUSWR
and RESET the scroll and enable registers; SELBANK, BUSWR and RESET the BankLatch; MBWR, BUSWR and RESET the latch,
and MBCLR the pending bit too; VIDSTART and VIDSTOP alone the started bit; DECODE, FLUSHDIRTY and RENDER alone set the
fault mark, and only where none stands; BUSWR, SELBANK, RENDER, TICK, MBWR and RESET alone append events; RENDER and
VIDSTART alone write the frame, FLUSHDIRTY too the caches, BUSWR too the accumulation buffer; and MARKDIRTY,
FLUSHDIRTY, INVALALL, PALLOAD, RENDER, BUSWR, RESET and VIDSTART alone the dirty flags. The model's own fields
(`result`, `inputs`, `allocs`, `draws`) are not meant. Rests on the spec's own decisions D8, D19, D29, D35, D38, D40
(92_eei_decisions.md). -/
def Obligations.ElementsWrittenOnlyByTheirCommands : Prop :=
  ∀ (i : Instr) (s t : State), exec i s = .next t →
    t.cfg = s.cfg ∧ t.commands = s.commands ∧
    (i ≠ .palload →
      t.palette = s.palette ∧ t.colorIndexTable = s.colorIndexTable ∧ t.paletteLoaded = s.paletteLoaded) ∧
    ((∀ cpu sp a d, i ≠ .buswr cpu sp a d) →
      t.ram = s.ram ∧ t.vram = s.vram ∧ t.sprram = s.sprram ∧
      (i ≠ .reset → t.scrollXLo = s.scrollXLo ∧ t.scrollXHi = s.scrollXHi ∧ t.scrollYLo = s.scrollYLo ∧
        t.scrollYHi = s.scrollYHi ∧ t.bgEnable = s.bgEnable ∧ t.overdraw = s.overdraw ∧
        t.seqEnableMain = s.seqEnableMain ∧ t.seqEnableSound = s.seqEnableSound) ∧
      ((∀ v, i ≠ .selbank v) → i ≠ .reset → t.bank = s.bank) ∧
      ((∀ v, i ≠ .mbwr v) → i ≠ .reset → t.mbLatch = s.mbLatch) ∧
      ((∀ v, i ≠ .mbwr v) → i ≠ .mbclr → i ≠ .reset → t.mbPending = s.mbPending)) ∧
    (i ≠ .vidstart → i ≠ .vidstop → t.videoOn = s.videoOn) ∧
    (t.fault = s.fault ∨ s.fault = none ∧
      ((∃ k tile c fx fy, i = .decode k tile c fx fy) ∨ (∃ L, i = .flushdirty L) ∨ i = .render)) ∧
    ((∀ cpu sp a d, i ≠ .buswr cpu sp a d) → (∀ v, i ≠ .selbank v) → i ≠ .render → (∀ q, i ≠ .tick q) →
      (∀ v, i ≠ .mbwr v) → i ≠ .reset → t.events = s.events) ∧
    ∀ v w, s.video = some v → t.video = some w → i ≠ .render → i ≠ .vidstart →
      w.out = v.out ∧ ((∀ L, i ≠ .flushdirty L) → w.cache = v.cache) ∧
      ((∀ cpu sp a d, i ≠ .buswr cpu sp a d) → w.acc = v.acc ∧
        ((∀ L cell, i ≠ .markdirty L cell) → (∀ L, i ≠ .flushdirty L) → i ≠ .invalall → i ≠ .palload →
          i ≠ .reset → w.dirty = v.dirty))

/-- R122: only VIDSTART and VIDSTOP change whether the video is started: a successful VIDSTART leaves it started, a
failed one and VIDSTOP leave it stopped, and the video elements exist exactly while it is started. -/
def Obligations.VideoLifetime : Prop :=
  ∀ (i : Instr) (s t : State), s.Ready → exec i s = .next t →
    (i ≠ .vidstart → i ≠ .vidstop → t.videoOn = s.videoOn) ∧
    (i = .vidstart →
      (t.result = some .ok ∧ t.videoOn = true) ∨ (t.result = some .failed ∧ t.videoOn = false)) ∧
    (i = .vidstop → t.videoOn = false) ∧ (t.videoOn = false ↔ t.video = none)

/-- R24, R150: the event list is append-only. -/
def Obligations.EventsOnlyAppended : Prop :=
  ∀ s t : State, step s = .next t → s.events <+: t.events

/-- R860, R861: a command appends at most one interrupt request, and only an enabled TICK or a mailbox write (MBWR, or
BUSWR through W_SOUND_COMMAND) with `mailboxRaisesInt` appends one, of the class the configuration gives. Rests on the
spec's own decisions D36, D37, D39, D56 (92_eei_decisions.md). The spec itself derives R861. -/
def Obligations.InterruptRequestSources : Prop :=
  ∀ (i : Instr) (s t : State), exec i s = .next t →
    ∃ es, t.events = s.events ++ es ∧ (intReqs es).length ≤ 1 ∧
      (intReqs es ≠ [] →
        (∃ q, i = .tick q ∧ s.seqEnable q = true ∧ es = [.intReq (Sequencer.target q) (seqKind s.cfg q)]) ∨
        (((∃ v, i = .mbwr v) ∨
          ∃ cpu sp a v r rh wh arg, i = .buswr cpu sp a v ∧ findRange s.cfg cpu sp a = some r ∧
            r.kind = .reg rh wh arg ∧ writeHandlerOf wh = some .soundCommand) ∧
          s.cfg.ints.mailboxRaisesInt = true ∧ es = [.intReq .sound s.cfg.ints.mailboxIntKind]))

/-! ### Address Dispatch Router (40_dispatch.md) -/

/-- R411, R422: an unmapped read returns `openBusValue` and has no other effect; an unmapped write changes no state
and emits no event. Rests on the spec's own decision D7 (92_eei_decisions.md). -/
def Obligations.UnmappedAccessHarmless : Prop :=
  ∀ (s : State) (cpu : Cpu) (sp : Space) (a : Addr), s.Ready → findRange s.cfg cpu sp a = none →
    exec (.busrd cpu sp a) s = .next { s with result := some (.byte s.cfg.bus.openBusValue) } ∧
    ∀ v, exec (.buswr cpu sp a v) s = .next { s with result := some .ok }

/-- R421: a write routed to a ROM range changes no state and emits no event. Rests on the spec's own decision D8
(92_eei_decisions.md). -/
def Obligations.RomWriteIgnored : Prop :=
  ∀ (s : State) (cpu : Cpu) (sp : Space) (a : Addr) (v : Byte) (r : AddressRange) (region base : Nat) (banked : Bool),
    s.Inv → s.fault = none → findRange s.cfg cpu sp a = some r → r.kind = .rom region base banked →
    exec (.buswr cpu sp a v) s = .next { s with result := some .ok }

/-- R401: on a checked configuration the range found is the one range of the table that covers the address. Rests on
the spec's own decision D6 (92_eei_decisions.md). -/
def Obligations.FindIsTheOnlyCoveringRange : Prop :=
  ∀ (c : Config) (cpu : Cpu) (sp : Space) (a : Addr) (r : AddressRange), c.valid = true →
    (findRange c cpu sp a = some r ↔
      r ∈ c.busMap cpu sp ∧ r.start.toNat ≤ a.toNat ∧ a.toNat ≤ r.stop.toNat)

/-- R405, R851: on a checked configuration the offset of every address of a ROM, RAM or VID range, at every bank, is
inside the backing store. Rests on the spec's own decisions D5, D51 (92_eei_decisions.md). -/
def Obligations.RouterOffsetInsideStore : Prop :=
  ∀ (c : Config) (cpu : Cpu) (sp : Space) (r : AddressRange) (a : Addr) (bank : Nat), c.valid = true →
    r ∈ c.busMap cpu sp → (∀ rh wh arg, r.kind ≠ .reg rh wh arg) → r.start.toNat ≤ a.toNat →
    a.toNat ≤ r.stop.toNat → bank < c.bank.bankCount →
    r.offset c.bank.bankSize bank a < c.storeSize r.kind

/-- R405 to R408, R410, R351: BUSRD of a ROM, RAM or VID range returns the byte at the offset R405 gives, with
the current bank for a banked range, and changes nothing. Rests on the spec's own decisions D5, D19
(92_eei_decisions.md). -/
def Obligations.BusReadOfStoreByte : Prop :=
  ∀ (s : State) (cpu : Cpu) (sp : Space) (a : Addr) (r : AddressRange), s.Inv → s.fault = none →
    findRange s.cfg cpu sp a = some r →
    (∀ region base banked, r.kind = .rom region base banked →
      exec (.busrd cpu sp a) s = .next { s with result := some (.byte (s.cfg.rom region
        (base + (if banked then s.bank * s.cfg.bank.bankSize else 0) + (a.toNat - r.start.toNat)))) }) ∧
    (∀ region base banked, r.kind = .ram region base banked →
      exec (.busrd cpu sp a) s = .next { s with result := some (.byte (s.ramByte region
        (base + (if banked then s.bank * s.cfg.bank.bankSize else 0) + (a.toNat - r.start.toNat)))) }) ∧
    (∀ L base, r.kind = .vid (.tilemap L) base →
      exec (.busrd cpu sp a) s = .next { s with result := some (.byte (s.vramByte L
        ((base + (a.toNat - r.start.toNat)) / s.cfg.cellCount L)
        ((base + (a.toNat - r.start.toNat)) % s.cfg.cellCount L))) }) ∧
    ∀ base, r.kind = .vid .sprite base →
      exec (.busrd cpu sp a) s = .next { s with result := some (.byte (s.sprramByte
        (base + (a.toNat - r.start.toNat)))) }

/-- R410, R444, R445, R446: BUSRD of a register range returns what its read handler gives: the open-bus value, the
mailbox latch, or the next external input, supplied by the host or free. Rests on the spec's own decisions D7, D44
(92_eei_decisions.md). Where an input comes from is notes/assumptions/7.md. -/
def Obligations.BusReadOfRegister : Prop :=
  ∀ (s : State) (cpu : Cpu) (sp : Space) (a : Addr) (r : AddressRange) (rh wh : BitVec 5) (arg : Nat), s.Ready →
    findRange s.cfg cpu sp a = some r → r.kind = .reg rh wh arg →
    (rh = 0x10 → exec (.busrd cpu sp a) s = .next { s with result := some (.byte s.cfg.bus.openBusValue) }) ∧
    (rh = 0x11 → exec (.busrd cpu sp a) s = .next { s with result := some (.byte s.mbLatch) }) ∧
    (rh = 0x12 →
      (∀ v rest, s.inputs = v :: rest →
        exec (.busrd cpu sp a) s = .next { s with inputs := rest, result := some (.byte v) }) ∧
      (s.inputs = [] → ∃ v,
        exec (.busrd cpu sp a) s = .next { s with draws := s.draws + 1, result := some (.byte v) }))

/-- R405, R406, R420: BUSWR to a RAM range stores the byte at the offset R405 gives, and changes no other byte and no
other state. Rests on the spec's own decision D5 (92_eei_decisions.md). -/
def Obligations.BusWriteRamByte : Prop :=
  ∀ (s : State) (cpu : Cpu) (sp : Space) (a : Addr) (v : Byte) (r : AddressRange) (region base : Nat)
    (banked : Bool), s.Inv → s.fault = none → findRange s.cfg cpu sp a = some r →
    r.kind = .ram region base banked →
    ∃ t, exec (.buswr cpu sp a v) s = .next t ∧ t = { s with ram := t.ram, result := some .ok } ∧
      ∀ r' o, t.ramByte r' o =
        if r' = region ∧
          o = base + (if banked then s.bank * s.cfg.bank.bankSize else 0) + (a.toNat - r.start.toNat) then v
        else s.ramByte r' o

/-- R407, R420, R351, R551: BUSWR to a TILEMAP range stores the byte in its plane and cell, marks that cell dirty
while the video is started, and changes no other byte, flag or state. Rests on the spec's own decisions D16, D19, D34
(92_eei_decisions.md). -/
def Obligations.BusWriteTilemapByte : Prop :=
  ∀ (s : State) (cpu : Cpu) (sp : Space) (a : Addr) (v : Byte) (r : AddressRange) (L : Layer) (base : Nat),
    s.Inv → s.fault = none → findRange s.cfg cpu sp a = some r → r.kind = .vid (.tilemap L) base →
    ∃ t, exec (.buswr cpu sp a v) s = .next t ∧
      t = { s with vram := t.vram, video := t.video, result := some .ok } ∧
      (∀ L' p i, p < 2 → t.vramByte L' p i =
        if L' = L ∧ p = (base + (a.toNat - r.start.toNat)) / s.cfg.cellCount L ∧
          i = (base + (a.toNat - r.start.toNat)) % s.cfg.cellCount L then v else s.vramByte L' p i) ∧
      (s.video = none → t.video = none) ∧
      ∀ w, s.video = some w → ∃ w', t.video = some w' ∧ w'.cache = w.cache ∧ w'.out = w.out ∧ w'.acc = w.acc ∧
        ∀ L' j, w'.isDirty L' j =
          if L' = L ∧ j = (base + (a.toNat - r.start.toNat)) % s.cfg.cellCount L then true else w.isDirty L' j

/-- R407, R420, R351, R132: BUSWR to a SPRITE range stores the byte, marks nothing dirty, and changes no other byte
and no other state. Rests on the spec's own decision D19 (92_eei_decisions.md). -/
def Obligations.BusWriteSpriteByte : Prop :=
  ∀ (s : State) (cpu : Cpu) (sp : Space) (a : Addr) (v : Byte) (r : AddressRange) (base : Nat),
    s.Inv → s.fault = none → findRange s.cfg cpu sp a = some r → r.kind = .vid .sprite base →
    ∃ t, exec (.buswr cpu sp a v) s = .next t ∧ t = { s with sprram := t.sprram, result := some .ok } ∧
      ∀ o, t.sprramByte o = if o = base + (a.toNat - r.start.toNat) then v else s.sprramByte o

/-- R432 to R436, R438, R439: what a write to each scroll and enable register leaves: that register, and nothing else.
Rests on the spec's own decision D9 (92_eei_decisions.md). -/
def Obligations.BusWriteScrollAndEnableRegisters : Prop :=
  ∀ (s : State) (cpu : Cpu) (sp : Space) (a : Addr) (d : Byte) (r : AddressRange) (rh wh : BitVec 5) (arg : Nat),
    s.Ready → findRange s.cfg cpu sp a = some r → r.kind = .reg rh wh arg →
    (wh = 0x02 → exec (.buswr cpu sp a d) s = .next { s with scrollXLo := d, result := some .ok }) ∧
    (wh = 0x03 → exec (.buswr cpu sp a d) s = .next { s with scrollXHi := d.extractLsb' 0 1, result := some .ok }) ∧
    (wh = 0x04 → exec (.buswr cpu sp a d) s = .next { s with scrollYLo := d, result := some .ok }) ∧
    (wh = 0x05 → exec (.buswr cpu sp a d) s = .next { s with scrollYHi := d.extractLsb' 0 1, result := some .ok }) ∧
    (wh = 0x06 → exec (.buswr cpu sp a d) s = .next { s with bgEnable := d.getLsbD 0, result := some .ok }) ∧
    (wh = 0x08 → exec (.buswr cpu sp a d) s = .next { s with seqEnableMain := d.getLsbD 0, result := some .ok }) ∧
    (wh = 0x09 → exec (.buswr cpu sp a d) s = .next { s with seqEnableSound := d.getLsbD 0, result := some .ok })

/-- R437, R640, R946: a write to the overdraw register takes bit 0; a 1-to-0 write makes every element of the
accumulation buffer TRANSPARENT while the video is started; every other write leaves the buffers. Rests on the spec's
own decisions D9, D30 (92_eei_decisions.md). -/
def Obligations.BusWriteOverdraw : Prop :=
  ∀ (s : State) (cpu : Cpu) (sp : Space) (a : Addr) (d : Byte) (r : AddressRange) (rh : BitVec 5) (arg : Nat),
    s.Ready → findRange s.cfg cpu sp a = some r → r.kind = .reg rh 0x07 arg →
    ((¬(s.overdraw = true ∧ d.getLsbD 0 = false) ∨ s.video = none) →
      exec (.buswr cpu sp a d) s = .next { s with overdraw := d.getLsbD 0, result := some .ok }) ∧
    (s.overdraw = true → d.getLsbD 0 = false → ∀ v, s.video = some v →
      ∃ acc, exec (.buswr cpu sp a d) s =
          .next { s with overdraw := false, video := some { v with acc := acc }, result := some .ok } ∧
        Surface.sized acc s.cfg.raster.visH s.cfg.raster.visW = true ∧
        ∀ y x, y < s.cfg.raster.visH → x < s.cfg.raster.visW → Surface.at? acc y x = some none)

/-- R431, R440: a write through W_BANK_SELECT is the command SELBANK with the data byte; a write through
W_SOUND_COMMAND, which only the main CPU's tables name, is the command MBWR with it. -/
def Obligations.RegisterFormsOfCommands : Prop :=
  ∀ (s : State) (cpu : Cpu) (sp : Space) (a : Addr) (d : Byte) (r : AddressRange) (rh wh : BitVec 5) (arg : Nat),
    s.Ready → findRange s.cfg cpu sp a = some r → r.kind = .reg rh wh arg →
    (wh = 0x01 → exec (.buswr cpu sp a d) s = exec (.selbank d) s) ∧
    (wh = 0x0A → cpu = .main ∧ exec (.buswr cpu sp a d) s = exec (.mbwr d) s)

/-- R430, R442, R443: W_NOP does nothing; W_SNDCHIP_CONTROL and W_SNDCHIP_DATA forward every write as an event and
write no state. Rests on the spec's own decisions D10, D45 (92_eei_decisions.md). -/
def Obligations.BusWriteSoundChipAndNop : Prop :=
  ∀ (s : State) (cpu : Cpu) (sp : Space) (a : Addr) (d : Byte) (r : AddressRange) (rh wh : BitVec 5) (arg : Nat),
    s.Ready → findRange s.cfg cpu sp a = some r → r.kind = .reg rh wh arg →
    (wh = 0x00 → exec (.buswr cpu sp a d) s = .next { s with result := some .ok }) ∧
    (wh = 0x0C → exec (.buswr cpu sp a d) s =
      .next { s with events := s.events ++ [.soundChipWrite arg .control d], result := some .ok }) ∧
    (wh = 0x0D → exec (.buswr cpu sp a d) s =
      .next { s with events := s.events ++ [.soundChipWrite arg .data d], result := some .ok })

/-- R260, R406, R407: a byte written through a RAM or VID range is what the next read of the address returns. Rests on
the spec's own decisions D19, D39 (92_eei_decisions.md). -/
def Obligations.StoredByteReadsBack : Prop :=
  ∀ (s t : State) (cpu : Cpu) (sp : Space) (a : Addr) (v : Byte) (r : AddressRange), s.Inv → s.fault = none →
    findRange s.cfg cpu sp a = some r →
    ((∃ region base banked, r.kind = .ram region base banked) ∨ ∃ b base, r.kind = .vid b base) →
    exec (.buswr cpu sp a v) s = .next t →
    exec (.busrd cpu sp a) t = .next { t with result := some (.byte v) }

/-- R262, R852: a bus write by one CPU never changes what the other CPU reads at an address of its own unbanked RAM
range or VID range. Rests on the spec's own decision D51 (92_eei_decisions.md). That the check of R852 keeps the two
CPUs' stores apart is the reading of notes/assumptions/26.md (DEDUCED), on which this statement rests; banked RAM is
left out, since either CPU's bank select moves it. -/
def Obligations.OtherCpuStoreUntouched : Prop :=
  ∀ (s t : State) (cpu cpu' : Cpu) (sp sp' : Space) (a b : Addr) (v : Byte) (r : AddressRange), s.Inv →
    s.fault = none → cpu ≠ cpu' → exec (.buswr cpu sp a v) s = .next t → findRange s.cfg cpu' sp' b = some r →
    ((∃ region base, r.kind = .ram region base false) ∨ ∃ buf base, r.kind = .vid buf base) →
    ∃ x, exec (.busrd cpu' sp' b) s = .next { s with result := some (.byte x) } ∧
      exec (.busrd cpu' sp' b) t = .next { t with result := some (.byte x) }

/-! ### Bank Switch Unit (41_bank.md) -/

/-- R450, R451, R453: SELBANK sets the latch to the value, or to `bankOutOfRange(value)` outside the banks; it emits
ProgramBank when the latch changes, and by `equalBankEvent` when it does not, `either` admitting both. Rests on the
spec's own decisions D11, D13 (92_eei_decisions.md). The choice under `either` and the counter are
notes/assumptions/18.md and 23.md. -/
def Obligations.SelbankEffect : Prop :=
  ∀ (s : State) (value : Byte), s.Ready →
    (value.toNat < s.cfg.bank.bankCount → bankTarget s.cfg value = value.toNat) ∧
    (s.cfg.bank.bankCount ≤ value.toNat → bankTarget s.cfg value = bankOutOfRange s.cfg.bank value) ∧
    (bankTarget s.cfg value ≠ s.bank → exec (.selbank value) s =
      .next { s with
        bank := bankTarget s.cfg value
        events := s.events ++ [.programBank (bankTarget s.cfg value)]
        result := some .ok }) ∧
    (bankTarget s.cfg value = s.bank → s.cfg.bank.equalBankEvent = .emit → exec (.selbank value) s =
      .next { s with events := s.events ++ [.programBank s.bank], result := some .ok }) ∧
    (bankTarget s.cfg value = s.bank → s.cfg.bank.equalBankEvent = .skip →
      exec (.selbank value) s = .next { s with result := some .ok }) ∧
    (bankTarget s.cfg value = s.bank → s.cfg.bank.equalBankEvent = .either →
      ∃ es, (es = [] ∨ es = [.programBank s.bank]) ∧ exec (.selbank value) s =
        .next { s with events := s.events ++ es, draws := s.draws + 1, result := some .ok })

/-- R110, R453: on a checked configuration every select gives a value in [0, bankCount), and the reference function
gives `value mod bankCount`. Rests on the spec's own decision D11 (92_eei_decisions.md). -/
def Obligations.BankTargetInRange : Prop :=
  ∀ (c : Config) (value : Byte), c.valid = true → bankTarget c value < c.bank.bankCount ∧
    (c.bank.bankOutOfRange = .mask → bankTarget c value = value.toNat % c.bank.bankCount)

/-- R454: selecting one bank twice leaves the same latch, and the same byte at every located place of every range, as
selecting it once. The spec itself derives R454. -/
def Obligations.SelbankIdempotent : Prop :=
  ∀ (s t u : State) (i : Byte), i.toNat < s.cfg.bank.bankCount → s.fault = none →
    exec (.selbank i) s = .next t → exec (.selbank i) t = .next u →
    t.bank = i.toNat ∧ u.bank = t.bank ∧
      ∀ r a, u.locate r a = t.locate r a ∧ ∀ l, u.readLoc l = t.readLoc l ∧ t.readLoc l = s.readLoc l

/-! ### Tile/Sprite Decoder (42_decoder.md) -/

/-- R501, R305: DECODE of a layout the configuration has returns the decoded block and writes no state; of another
layout it raises IllegalCommand. Rests on the spec's own decisions D2, D50 (92_eei_decisions.md). -/
def Obligations.DecodeCommandReturnsBlock : Prop :=
  ∀ (s : State) (k : BitVec 3) (tile : BitVec 12) (coloff : BitVec 11) (fx fy : Bool), s.Ready →
    (k.toNat < s.cfg.layouts.length → exec (.decode k tile coloff fx fy) s =
      .next { s with result := some (.block (decodeTile s.cfg k.toNat tile.toNat coloff.toNat fx fy)) }) ∧
    (s.cfg.layouts.length ≤ k.toNat → exec (.decode k tile coloff fx fy) s =
      .next { s with fault := some .illegalCommand, result := some .fault })

/-- R500, R502 to R507: the pixel of a decoded block at row `y`, column `x` has the pen whose bit of weight
`2^(n-1-p)` is the graphics ROM bit (most significant bit of each byte first) at the offset R504 gives for
plane `p` of the reduced tile, the indices being counted from the other end under a flip; its index is `c +
pen`; and the block has no pixel outside the layout's tile size. Rests on the spec's own decisions D14, D15,
D16, D17, D18 (92_eei_decisions.md). The bit order and the plane weights are notes/assumptions/16.md (G1, G2,
PRESUMED by the spec). -/
def Obligations.DecodedPixel : Prop :=
  ∀ (cfg : Config) (k t c : Nat) (fx fy : Bool) (y x : Nat),
    let l := cfg.layout k
    let xi := if fx then l.tileWidth - 1 - x else x
    let yi := if fy then l.tileHeight - 1 - y else y
    let off := fun p => t % l.tileCount * l.bytesPerTile * 8 + (l.planeOffsets[p]?).getD 0 + (l.xOffsets[xi]?).getD 0
      + (l.yOffsets[yi]?).getD 0
    let pen := ∑ p ∈ Finset.range l.bitsPerPixel,
      ((cfg.rom l.gfxRegion (off p / 8)).toNat >>> (7 - off p % 8)) % 2 * 2 ^ (l.bitsPerPixel - 1 - p)
    Surface.at? (decodeTile cfg k t c fx fy) y x =
      if y < l.tileHeight ∧ x < l.tileWidth then some { pen := pen, index := c + pen } else none

/-- R511: every pen of a decoded block is below `2^bitsPerPixel`. Rests on the spec's own decision D15
(92_eei_decisions.md). -/
def Obligations.PenFitsLayout : Prop :=
  ∀ (cfg : Config) (k t c : Nat) (fx fy : Bool) (y x : Nat) (p : PixelRec),
    Surface.at? (decodeTile cfg k t c fx fy) y x = some p →
    p.pen < 2 ^ (cfg.layout k).bitsPerPixel ∧ p.index = c + p.pen

/-- R503: a flip reads the pixel of the unflipped block at the column `w - 1 - x` or the row `h - 1 - y`. R510, which
the spec itself derives from R500 and R503: mirroring the columns of a block gives the block with the other flipX, and
mirroring its rows the block with the other flipY. -/
def Obligations.FlipReversesPixels : Prop :=
  ∀ (cfg : Config) (k t c : Nat) (fx fy : Bool) (y x : Nat),
    y < (cfg.layout k).tileHeight → x < (cfg.layout k).tileWidth →
    Surface.at? (decodeTile cfg k t c fx fy) y x =
      Surface.at? (decodeTile cfg k t c false false) (if fy then (cfg.layout k).tileHeight - 1 - y else y)
        (if fx then (cfg.layout k).tileWidth - 1 - x else x) ∧
    Surface.at? (decodeTile cfg k t c fx fy) y ((cfg.layout k).tileWidth - 1 - x) =
      Surface.at? (decodeTile cfg k t c (!fx) fy) y x ∧
    Surface.at? (decodeTile cfg k t c fx fy) ((cfg.layout k).tileHeight - 1 - y) x =
      Surface.at? (decodeTile cfg k t c fx (!fy)) y x

/-! ### Dirty-Region Tracker (43_dirty.md) -/

/-- R550: MARKDIRTY sets the flag of the cell reduced modulo `cellCount` and nothing else; with the video stopped it
does nothing; its illegal words are those with layer 2 or 3 or a reserved bit. -/
def Obligations.MarkdirtyEffect : Prop :=
  (∀ (c : Config) (w : Word), bits w 31 28 = 0x5 →
    (legalCommand c w = none ↔ 2 ≤ bits w 27 26 ∨ bits w 25 16 ≠ 0)) ∧
  ∀ (s : State) (L : Layer) (cell : BitVec 16), s.Inv → s.fault = none →
    (s.video = none → exec (.markdirty L cell) s = .next { s with result := some .ok }) ∧
    ∀ v, s.video = some v → ∃ d, exec (.markdirty L cell) s =
        .next { s with video := some { v with dirty := d }, result := some .ok } ∧
      ∀ L' j, VideoState.isDirty { v with dirty := d } L' j =
        if L' = L ∧ j = cell.toNat % s.cfg.cellCount L then true else v.isDirty L' j

/-- R560 to R562: FLUSHDIRTY re-decodes into the cache exactly the cells of the layer that were dirty, cleans every
flag of the layer, and changes nothing else. Rests on the spec's own decisions D19, D20, D21 (92_eei_decisions.md). -/
def Obligations.FlushdirtyEffect : Prop :=
  ∀ (s : State) (L : Layer) (v : VideoState), s.Inv → s.fault = none → s.video = some v →
    ∃ w, exec (.flushdirty L) s = .next { s with video := some w, result := some .ok } ∧
      w.out = v.out ∧ w.acc = v.acc ∧ (∀ L', L' ≠ L → w.cache.get L' = v.cache.get L') ∧
      (∀ L' j, w.isDirty L' j = if L' = L then false else v.isDirty L' j) ∧
      ∀ j, j < s.cfg.cellCount L →
        (v.isDirty L j = true → s.cellShown w L j) ∧
        (v.isDirty L j = false → ∀ y x, y < (s.cfg.layerLayout L).tileHeight → x < (s.cfg.layerLayout L).tileWidth →
          Surface.at? (w.cache.get L) (j / (s.cfg.layers.get L).cols * (s.cfg.layerLayout L).tileHeight + y)
              (j % (s.cfg.layers.get L).cols * (s.cfg.layerLayout L).tileWidth + x) =
            Surface.at? (v.cache.get L) (j / (s.cfg.layers.get L).cols * (s.cfg.layerLayout L).tileHeight + y)
              (j % (s.cfg.layers.get L).cols * (s.cfg.layerLayout L).tileWidth + x))

/-- R552: a write to video-RAM offset `O` of a layer sets exactly the flag of cell `O mod cellCount`, and the next
FLUSHDIRTY of the layer shows that cell as the new video RAM decodes, rewrites no cell that was clean before the
write, and leaves every flag of the layer clean. The spec itself derives R552. -/
def Obligations.VideoWriteRedecodesOneCell : Prop :=
  ∀ (s t : State) (cpu : Cpu) (sp : Space) (a : Addr) (d : Byte) (r : AddressRange) (L : Layer) (base : Nat)
    (v : VideoState), s.Inv → s.fault = none → s.video = some v → findRange s.cfg cpu sp a = some r →
    r.kind = .vid (.tilemap L) base → exec (.buswr cpu sp a d) s = .next t →
    ∃ u w, exec (.flushdirty L) t = .next u ∧ u.video = some w ∧
      (∀ v', t.video = some v' → ∀ L' j, v'.isDirty L' j = true ↔
        (L' = L ∧ j = (base + (a.toNat - r.start.toNat)) % s.cfg.cellCount L) ∨ v.isDirty L' j = true) ∧
      t.cellShown w L ((base + (a.toNat - r.start.toNat)) % s.cfg.cellCount L) ∧
      (∀ j, w.isDirty L j = false) ∧
      ∀ j, j < s.cfg.cellCount L → j ≠ (base + (a.toNat - r.start.toNat)) % s.cfg.cellCount L →
        v.isDirty L j = false →
        ∀ y x, y < (s.cfg.layerLayout L).tileHeight → x < (s.cfg.layerLayout L).tileWidth →
          Surface.at? (w.cache.get L) (j / (s.cfg.layers.get L).cols * (s.cfg.layerLayout L).tileHeight + y)
              (j % (s.cfg.layers.get L).cols * (s.cfg.layerLayout L).tileWidth + x) =
            Surface.at? (v.cache.get L) (j / (s.cfg.layers.get L).cols * (s.cfg.layerLayout L).tileHeight + y)
              (j % (s.cfg.layers.get L).cols * (s.cfg.layerLayout L).tileWidth + x)

/-- R565, R566, R570: INVALALL sets every flag of both layers and changes nothing else; PALLOAD does so too and takes
the derived palette; with the video stopped neither sets a flag. Rests on the spec's own decisions D32, D34, D53
(92_eei_decisions.md). -/
def Obligations.InvalallAndPalloadEffect : Prop :=
  ∀ s : State, s.Ready →
    (s.video = none →
      exec .invalall s = .next { s with result := some .ok } ∧
      exec .palload s = .next { s with
        palette := s.cfg.raster.derivedPalette
        colorIndexTable := s.cfg.raster.derivedIndexTable
        paletteLoaded := true
        result := some .ok }) ∧
    ∀ v, s.video = some v → ∃ d,
      (∀ L j, VideoState.isDirty { v with dirty := d } L j = true ↔ j < s.cfg.cellCount L) ∧
      exec .invalall s = .next { s with video := some { v with dirty := d }, result := some .ok } ∧
      exec .palload s = .next { s with
        palette := s.cfg.raster.derivedPalette
        colorIndexTable := s.cfg.raster.derivedIndexTable
        paletteLoaded := true
        video := some { v with dirty := d }
        result := some .ok }

/-- R571: the re-decode PALLOAD forces writes the same records back: a flush after PALLOAD leaves the cache a flush
without it leaves. The spec itself derives R571. -/
def Obligations.PalloadKeepsIndices : Prop :=
  ∀ (s t u u' : State) (L : Layer) (w w' : VideoState), s.Inv → s.CacheInv → s.fault = none →
    exec .palload s = .next t → exec (.flushdirty L) t = .next u → u.video = some w →
    exec (.flushdirty L) s = .next u' → u'.video = some w' → w.cache.get L = w'.cache.get L

/-! ### Raster Compositor (44_compositor.md) -/

/-- R600, R610, R611, R620 to R625, R630, R631, R650, R651: a RENDER without overdraw leaves in OUT, at every visible
pixel, what the stages give when every cell is decoded afresh from the video RAM: the text pixel, else the
highest-numbered sprite's, else the background's; ACC keeps its contents; the frame is presented through the palette;
and no register or memory changes. Rests on the spec's own decisions D9, D14, D15, D16, D17, D18, D19, D21, D22, D23,
D24, D25, D26, D27, D28, D32, D58 (92_eei_decisions.md). The spec itself derives R651. The counter is
notes/assumptions/23.md. The pens, colour offsets and sprite positions of a frame rest on notes/assumptions/16.md (G1
to G4, PRESUMED by the spec). -/
def Obligations.FrameWithoutOverdraw : Prop :=
  ∀ (s : State) (v : VideoState), s.Inv → s.CacheInv → s.fault = none → s.video = some v → s.overdraw = false →
    ∃ w, exec .render s = .next { s with
        video := some w
        events := s.events ++ [.present (s.presentSurface w.out)]
        draws := s.draws + 1
        result := some .ok } ∧
      w.acc = v.acc ∧
      ∀ y x, y < s.cfg.raster.visH → x < s.cfg.raster.visW →
        Surface.at? w.out y x = some ((s.plottedPixel y x).getD (s.backgroundPixel y x)) ∧
        ∀ c, s.paletteEntry ((s.plottedPixel y x).getD (s.backgroundPixel y x)) = some c →
          Surface.at? (s.presentSurface w.out) y x = some c

/-- R600, R602, R610, R611, R620 to R625, R630, R631, R635, R636, R651: a RENDER in overdraw mode plots the sprites
and the text into ACC, which keeps every element not plotted, and leaves in OUT the non-transparent elements of ACC
over the freshly drawn background. Rests on the spec's own decisions D9, D14, D15, D16, D17, D18, D19, D21, D22, D23,
D24, D25, D26, D27, D28, D29, D32, D58 (92_eei_decisions.md). The spec itself derives R636 and R651. The counter is
notes/assumptions/23.md. The pens, colour offsets and sprite positions of a frame rest on notes/assumptions/16.md (G1
to G4, PRESUMED by the spec). -/
def Obligations.FrameWithOverdraw : Prop :=
  ∀ (s : State) (v : VideoState), s.Inv → s.CacheInv → s.fault = none → s.video = some v → s.overdraw = true →
    ∃ w, exec .render s = .next { s with
        video := some w
        events := s.events ++ [.present (s.presentSurface w.out)]
        draws := s.draws + 1
        result := some .ok } ∧
      ∀ y x, y < s.cfg.raster.visH → x < s.cfg.raster.visW →
        Surface.at? w.acc y x = some ((s.plottedPixel y x).or (Surface.getD v.acc y x none)) ∧
        Surface.at? w.out y x =
          some (((s.plottedPixel y x).or (Surface.getD v.acc y x none)).getD (s.backgroundPixel y x))

/-- R563, R610, R611, R630: a RENDER cleans every flag of FG; it cleans every flag of BG when the background is
enabled, and otherwise leaves the flags and the cache of BG as they are. Rests on the spec's own decisions D20, D22,
D23, D24, D25, D58 (92_eei_decisions.md). -/
def Obligations.FrameFlushesLayers : Prop :=
  ∀ (s t : State) (v w : VideoState), s.Inv → s.fault = none → s.video = some v → exec .render s = .next t →
    t.video = some w →
    (∀ j, w.isDirty .fg j = false) ∧
    (s.bgEnable = true → ∀ j, w.isDirty .bg j = false) ∧
    (s.bgEnable = false → (∀ j, w.isDirty .bg j = v.isDirty .bg j) ∧ w.cache.bg = v.cache.bg)

/-- R651: two machines that differ only in their flags and caches, each with the cache invariant, leave the same frame
and present the same surface. The spec itself derives R651. -/
def Obligations.RenderIndependentOfDirtyHistory : Prop :=
  ∀ (s t t' : State) (v v' w w' : VideoState), s.Inv → s.CacheInv → s.fault = none → s.video = some v →
    State.Inv { s with video := some v' } → State.CacheInv { s with video := some v' } → v'.acc = v.acc →
    exec .render s = .next t → t.video = some w →
    exec .render { s with video := some v' } = .next t' → t'.video = some w' →
    w.out = w'.out ∧ w.acc = w'.acc ∧ t.events = t'.events

/-- R604, R610, R612: adding the surface's width to the horizontal scroll, or its height to the vertical scroll,
leaves the frame and everything else as it is. Rests on the spec's own decisions D9, D22, D24, D58
(92_eei_decisions.md). The spec itself derives R612. -/
def Obligations.ScrollWraparound : Prop :=
  ∀ (s t : State) (lo : Byte) (hi : BitVec 1), exec .render s = .next t →
    (hi.toNat * 256 + lo.toNat = s.scrollXHi.toNat * 256 + s.scrollXLo.toNat + s.cfg.surfaceW .bg →
      exec .render { s with scrollXLo := lo, scrollXHi := hi } = .next { t with scrollXLo := lo, scrollXHi := hi }) ∧
    (hi.toNat * 256 + lo.toNat = s.scrollYHi.toNat * 256 + s.scrollYLo.toNat + s.cfg.surfaceH .bg →
      exec .render { s with scrollYLo := lo, scrollYHi := hi } = .next { t with scrollYLo := lo, scrollYHi := hi })

/-- R636: RENDER never clears ACC. After two frames in overdraw mode with nothing clearing ACC between them, the
second on any video RAM, sprite RAM and registers, an element of ACC holds the second frame's value where the second
frame plotted it, else the first frame's where the first plotted it, else what it held before. What a frame plots is
what it leaves in a clear ACC. The spec itself derives R636. -/
def Obligations.OverdrawUnion : Prop :=
  (∀ (s t : State) (v w : VideoState), s.fault = none → s.overdraw = false → s.video = some v →
    exec .render s = .next t → t.video = some w → w.acc = v.acc) ∧
  ∀ (s t t' u p q : State) (v vt v2 vu vp vq : VideoState) (y x : Nat),
    s.Inv → s.fault = none → s.overdraw = true → s.video = some v → exec .render s = .next t → t.video = some vt →
    t'.Inv → t'.cfg = s.cfg → t'.fault = none → t'.overdraw = true → t'.video = some v2 → v2.acc = vt.acc →
    exec .render t' = .next u → u.video = some vu →
    exec .render { s with video := some { v with acc := clearAcc s.cfg } } = .next p → p.video = some vp →
    exec .render { t' with video := some { v2 with acc := clearAcc s.cfg } } = .next q → q.video = some vq →
    y < s.cfg.raster.visH → x < s.cfg.raster.visW →
    Surface.getD vu.acc y x none =
      (Surface.getD vq.acc y x none).or ((Surface.getD vp.acc y x none).or (Surface.getD v.acc y x none))

/-- R623, R626: the sprite origin for both senses of y, and two configurations that differ only in the origins place
every sprite shifted by the difference of the origins. Rests on the spec's own decision D27 (92_eei_decisions.md). The
spec itself derives R626. The y formula is notes/assumptions/16.md (G4, PRESUMED by the spec). -/
def Obligations.SpriteOriginShift : Prop :=
  ∀ (p : SpriteCfg) (f : SpriteFields) (dx dy : Int),
    (spriteOrigin p f).2 = f.x + p.xOrigin ∧
    (p.ySense = .inverted → (spriteOrigin p f).1 = p.yOrigin - f.y) ∧
    (p.ySense = .direct → (spriteOrigin p f).1 = f.y + p.yOrigin) ∧
    spriteOrigin { p with xOrigin := p.xOrigin + dx, yOrigin := p.yOrigin + dy } f =
      ((spriteOrigin p f).1 + dy, (spriteOrigin p f).2 + dx)

/-- R660, R830, R831: VIDSTART with a successful allocation creates every buffer, with every flag set and ACC all
TRANSPARENT, and returns `ok`; with a failed one it leaves the video stopped and returns `failed`, which is no fault;
nothing else changes. With no draw supplied by the host it does one of the two. Rests on the spec's own decisions D33,
D44 (92_eei_decisions.md). The spec itself derives R831. Where the outcome comes from is notes/assumptions/7.md. -/
def Obligations.VidstartEffect : Prop :=
  ∀ s : State, s.Ready →
    let started := fun (s' : State) (w : VideoState) =>
      s' = { s with allocs := s.allocs.tail, video := some w, draws := s'.draws, result := some .ok } ∧
      w.sized s.cfg = true ∧ (∀ L j, w.isDirty L j = true ↔ j < s.cfg.cellCount L) ∧
      ∀ y x, y < s.cfg.raster.visH → x < s.cfg.raster.visW → Surface.at? w.acc y x = some none
    let failed := fun s' : State =>
      s' = { s with allocs := s.allocs.tail, video := none, draws := s'.draws, result := some .failed }
    (∀ rest, s.allocs = true :: rest → ∃ s' w, exec .vidstart s = .next s' ∧ started s' w) ∧
    (∀ rest, s.allocs = false :: rest → ∃ s', exec .vidstart s = .next s' ∧ failed s') ∧
    (s.allocs = [] → ∃ s', exec .vidstart s = .next s' ∧ ((∃ w, started s' w) ∨ failed s'))

/-- R662: VIDSTOP destroys the video buffers and changes nothing else. Rests on the spec's own decision D33
(92_eei_decisions.md). -/
def Obligations.VidstopEffect : Prop :=
  ∀ s : State, s.Ready → exec .vidstop s = .next { s with video := none, result := some .ok }

/-! ### Reset, sequencer and mailbox -/

/-- R900, R902 to R904: RESET sets the BankLatch to its reset value and always emits ProgramBank, clears the pending
bit, leaves the nine drawn registers at some value, sets every dirty flag of a started video, and keeps everything
else, ACC included. Rests on the spec's own decisions D12, D41 (92_eei_decisions.md). The spec itself derives R904.
The nine drawn registers are notes/assumptions/6.md. -/
def Obligations.ResetEffect : Prop :=
  ∀ s : State, s.Ready →
    ∃ t, exec .reset s = .next t ∧
      t = { s with
        bank := s.cfg.bank.bankResetValue
        mbPending := false
        events := s.events ++ [.programBank s.cfg.bank.bankResetValue]
        mbLatch := t.mbLatch
        scrollXLo := t.scrollXLo
        scrollXHi := t.scrollXHi
        scrollYLo := t.scrollYLo
        scrollYHi := t.scrollYHi
        bgEnable := t.bgEnable
        overdraw := t.overdraw
        seqEnableMain := t.seqEnableMain
        seqEnableSound := t.seqEnableSound
        video := t.video
        draws := t.draws
        result := some .ok } ∧
      (s.video = none → t.video = none) ∧
      ∀ v, s.video = some v → ∃ w, t.video = some w ∧ w.cache = v.cache ∧ w.out = v.out ∧ w.acc = v.acc ∧
        ∀ L j, w.isDirty L j = true ↔ j < s.cfg.cellCount L

/-- R700, R710, R713: a tick emits one request of its own class to its own CPU exactly when its enable bit is set, and
changes no state; a tick that finds the bit 0 is lost. Rests on the spec's own decisions D35, D36, D56
(92_eei_decisions.md). -/
def Obligations.TickEffect : Prop :=
  ∀ s : State, s.Ready →
    exec (.tick .main) s = .next { s with
      events := s.events ++ (if s.seqEnableMain then [.intReq .main s.cfg.ints.seqKindMain] else [])
      result := some .ok } ∧
    exec (.tick .sound) s = .next { s with
      events := s.events ++ (if s.seqEnableSound then [.intReq .sound s.cfg.ints.seqKindSound] else [])
      result := some .ok }

/-- R712, which the spec derives from R710, R438 and R439: TICK of an instance reads only its own enable bit (what it
emits is the same in any two states of one configuration that agree on that bit, and it changes nothing else), and
each enable handler writes only its own instance's bit. Rests on the spec's own decisions D9, D35
(92_eei_decisions.md). -/
def Obligations.SequencerIndependence : Prop :=
  (∀ (q : Sequencer) (s s' : State), s.Ready → s'.Ready → s'.cfg = s.cfg → s'.seqEnable q = s.seqEnable q →
    ∃ es, exec (.tick q) s = .next { s with events := s.events ++ es, result := some .ok } ∧
      exec (.tick q) s' = .next { s' with events := s'.events ++ es, result := some .ok }) ∧
  ∀ (s t : State) (cpu : Cpu) (sp : Space) (a : Addr) (d : Byte) (r : AddressRange) (rh wh : BitVec 5) (arg : Nat),
    s.Ready → findRange s.cfg cpu sp a = some r → r.kind = .reg rh wh arg → exec (.buswr cpu sp a d) s = .next t →
    (wh = 0x08 → t = { s with seqEnableMain := t.seqEnableMain, result := some .ok }) ∧
    (wh = 0x09 → t = { s with seqEnableSound := t.seqEnableSound, result := some .ok })

/-- R944: a write of an enable register takes effect at the next tick of that instance, and a tick that finds the bit
0 is lost: the later write of the bit raises nothing. -/
def Obligations.EnableTakesEffectAtNextTick : Prop :=
  ∀ (q : Sequencer) (s : State) (cpu : Cpu) (sp : Space) (a : Addr) (d : Byte) (r : AddressRange) (rh wh : BitVec 5)
    (arg : Nat), s.Ready → findRange s.cfg cpu sp a = some r → r.kind = .reg rh wh arg →
    (q = .main → wh = 0x08) → (q = .sound → wh = 0x09) →
    (∃ t u, exec (.buswr cpu sp a d) s = .next t ∧ exec (.tick q) t = .next u ∧
      u.events = s.events ++ (if d.getLsbD 0 then [.intReq (Sequencer.target q) (seqKind s.cfg q)] else [])) ∧
    (s.seqEnable q = false →
      ∃ t u, exec (.tick q) s = .next t ∧ exec (.buswr cpu sp a d) t = .next u ∧ u.events = s.events)

/-- R750, R751, R754, R261, R441: MBWR stores the byte and sets the pending bit, and emits the request when
configured; MBCLR, and a write through W_SOUND_ACK, which only the sound CPU's tables name, clear the pending bit and
keep the latch. Rests on the spec's own decisions D37, D38 (92_eei_decisions.md). -/
def Obligations.MailboxCommands : Prop :=
  ∀ (s : State), s.Ready →
    (∀ v, exec (.mbwr v) s = .next { s with
      mbLatch := v
      mbPending := true
      events := s.events ++ (if s.cfg.ints.mailboxRaisesInt then [.intReq .sound s.cfg.ints.mailboxIntKind] else [])
      result := some .ok }) ∧
    exec .mbclr s = .next { s with mbPending := false, result := some .ok } ∧
    ∀ (cpu : Cpu) (sp : Space) (a : Addr) (d : Byte) (r : AddressRange) (rh wh : BitVec 5) (arg : Nat),
      findRange s.cfg cpu sp a = some r → r.kind = .reg rh wh arg → wh = 0x0B →
      cpu = .sound ∧ exec (.buswr cpu sp a d) s = exec .mbclr s

/-- R752, R445: MBRD returns the latch and changes nothing, so that repeated reads return the same byte; a read
through R_SOUND_COMMAND, which only the sound CPU's tables name, is MBRD; a word of its opcode is illegal exactly when
a reserved bit is set. -/
def Obligations.MbrdReturnsLatch : Prop :=
  (∀ (c : Config) (w : Word), bits w 31 28 = 0xC → (legalCommand c w = none ↔ bits w 27 0 ≠ 0)) ∧
  ∀ s : State, s.Ready →
    exec .mbrd s = .next { s with result := some (.byte s.mbLatch) } ∧
    (∀ t, exec .mbrd s = .next t → exec .mbrd t = .next t) ∧
    ∀ (cpu : Cpu) (sp : Space) (a : Addr) (r : AddressRange) (rh wh : BitVec 5) (arg : Nat),
      findRange s.cfg cpu sp a = some r → r.kind = .reg rh wh arg → rh = 0x11 →
      cpu = .sound ∧ exec (.busrd cpu sp a) s = exec .mbrd s

/-- R753: after `mbwr v` every MBRD returns `v` until a command that writes the latch, whatever other commands run in
between: reads, clears of the pending bit and bus writes among them. The commands that write the latch are MBWR, RESET
and a BUSWR through W_SOUND_COMMAND. The spec itself derives R753. -/
def Obligations.MailboxNoAutoClear : Prop :=
  ∀ (s t u : State) (v : Byte) (between : List Instr), s.Ready → exec (.mbwr v) s = .next t →
    (∀ i ∈ between, mayWriteLatch s.cfg i = false) → execAll between t = .next u → u.fault = none →
    exec .mbrd u = .next { u with result := some (.byte v) }
end

