-- ==== Sys2Proof/Laws/Surface.lean ====
section
/-! SUPPORT. Surfaces: what a built surface, a put and a pixel loop leave at each position. -/

namespace Sys2Proof.Machine

section
variable {α : Type}

@[simp] theorem Surface.at?_build (h w : Nat) (f : Nat → Nat → α) (y x : Nat) :
    Surface.at? (Surface.build h w f) y x = if y < h ∧ x < w then some (f y x) else none := by
  unfold Surface.at? Surface.build
  by_cases hy : y < h
  · by_cases hx : x < w
    · simp [hy, hx]
    · simp [hy, hx]
  · simp [hy]

theorem Surface.getD_build {h w : Nat} {f : Nat → Nat → α} {y x : Nat} (hy : y < h) (hx : x < w) (d : α) :
    Surface.getD (Surface.build h w f) y x d = f y x := by
  simp [Surface.getD, hy, hx]

@[simp] theorem Surface.sized_build (h w : Nat) (f : Nat → Nat → α) :
    Surface.sized (Surface.build h w f) h w = true := by
  simp [Surface.sized, Surface.build]

theorem Surface.at?_put (S : Surface α) (y x : Nat) (v : α) (y' x' : Nat) :
    Surface.at? (Surface.put S y x v) y' x' =
      if y' = y ∧ x' = x then (Surface.at? S y x).map (fun _ => v) else Surface.at? S y' x' := by
  unfold Surface.at? Surface.put
  rw [List.getElem?_modify]
  by_cases hy : y' = y
  · subst hy
    cases hS : S[y']? with
    | none => simp
    | some row =>
      simp only [if_true, true_and]
      by_cases hx : x' = x
      · subst hx
        by_cases hl : x' < row.length <;> simp [hl]
      · simp [hx, Ne.symm hx]
  · have : ¬ (y = y') := fun h => hy h.symm
    cases hS : S[y']? <;> simp [hy, this]

@[simp] theorem Surface.sized_put (S : Surface α) (y x : Nat) (v : α) (h w : Nat) :
    Surface.sized (Surface.put S y x v) h w = Surface.sized S h w := by
  unfold Surface.sized Surface.put
  rw [Bool.eq_iff_iff]
  simp only [List.length_modify, Bool.and_eq_true, decide_eq_true_eq, List.all_eq_true]
  refine and_congr_right fun _ => ⟨fun H row hrow => ?_, fun H row hrow => ?_⟩
  · obtain ⟨n, hn, rfl⟩ := List.getElem_of_mem hrow
    have := H ((S.modify y fun row => row.set x v)[n]'(by simpa using hn)) (List.getElem_mem _)
    rw [List.getElem_modify] at this
    split at this <;> simpa using this
  · obtain ⟨n, hn, rfl⟩ := List.getElem_of_mem hrow
    have hn' : n < S.length := by simpa using hn
    have := H S[n] (List.getElem_mem _)
    rw [List.getElem_modify]
    split <;> simpa using this

/-- A sized surface has an element exactly at the positions inside it. -/
theorem Surface.at?_isSome {S : Surface α} {h w : Nat} (hs : Surface.sized S h w = true) {y x : Nat} :
    (Surface.at? S y x).isSome = true ↔ y < h ∧ x < w := by
  unfold Surface.sized at hs
  simp only [Bool.and_eq_true, decide_eq_true_eq, List.all_eq_true] at hs
  unfold Surface.at?
  by_cases hy : y < S.length
  · have := hs.2 S[y] (List.getElem_mem _)
    simp [hy, this, hs.1 ▸ hy]
  · simp only [hs.1] at hy
    simp [hs.1, hy]

/-- Two surfaces of one size that agree at every position are equal. -/
theorem Surface.ext_sized {S T : Surface α} {h w : Nat} (hS : Surface.sized S h w = true)
    (hT : Surface.sized T h w = true) (H : ∀ y x, y < h → x < w → Surface.at? S y x = Surface.at? T y x) : S = T := by
  unfold Surface.sized at hS hT
  simp only [Bool.and_eq_true, decide_eq_true_eq, List.all_eq_true] at hS hT
  refine List.ext_getElem (by rw [hS.1, hT.1]) fun y hy hy' => ?_
  have l1 := hS.2 S[y] (List.getElem_mem _)
  have l2 := hT.2 T[y] (List.getElem_mem _)
  refine List.ext_getElem (by rw [l1, l2]) fun x hx hx' => ?_
  have := H y x (hS.1 ▸ hy) (l1 ▸ hx)
  simpa [Surface.at?, hy, hy', hx, hx'] using this

end

section
variable {σ : Type}

/-- A property every turn of a pixel loop keeps holds after the loop. -/
theorem forPixels_keeps {P : σ → Prop} {h w : Nat} {f : Nat → Nat → σ → σ} {s : σ} (hs : P s)
    (hf : ∀ y x s, y < h → x < w → P s → P (f y x s)) : P (forPixels h w f s) := by
  unfold forPixels
  have row : ∀ y, y < h → ∀ (xs : List Nat), (∀ x ∈ xs, x < w) → ∀ s, P s → P (xs.foldl (fun s x => f y x s) s) := by
    intro y hy xs
    induction xs with
    | nil => intro _ s h; exact h
    | cons x xs ih =>
      intro hx s h
      exact ih (fun z hz => hx z (List.mem_cons_of_mem _ hz)) _ (hf y x s hy (hx x List.mem_cons_self) h)
  have all : ∀ (ys : List Nat), (∀ y ∈ ys, y < h) → ∀ s, P s →
      P (ys.foldl (fun s y => (List.range w).foldl (fun s x => f y x s) s) s) := by
    intro ys
    induction ys with
    | nil => intro _ s h; exact h
    | cons y ys ih =>
      intro hy s h
      exact ih (fun z hz => hy z (List.mem_cons_of_mem _ hz)) _
        (row y (hy y List.mem_cons_self) _ (fun x hx => List.mem_range.mp hx) s h)
  exact all _ (fun y hy => List.mem_range.mp hy) s hs

/-- A fold in which one turn sets an observation, and every other turn keeps it, sets it. -/
theorem foldl_hit {β γ : Type} {obs : σ → γ} {g : γ → γ} {f : σ → β → σ} {a : β} :
    ∀ (l : List β), l.Nodup → a ∈ l → (∀ s, obs (f s a) = g (obs s)) →
      (∀ b ∈ l, b ≠ a → ∀ s, obs (f s b) = obs s) → ∀ s, obs (l.foldl f s) = g (obs s) := by
  have keep : ∀ (l : List β), (∀ b ∈ l, ∀ s, obs (f s b) = obs s) → ∀ s, obs (l.foldl f s) = obs s := by
    intro l
    induction l with
    | nil => intro _ s; rfl
    | cons b l ih =>
      intro h s
      rw [List.foldl_cons, ih (fun c hc => h c (List.mem_cons_of_mem _ hc)), h b List.mem_cons_self]
  intro l
  induction l with
  | nil => intro _ h; cases h
  | cons b l ih =>
    intro hn ha hit miss s
    rw [List.foldl_cons]
    rcases List.mem_cons.mp ha with rfl | hal
    · rw [keep l (fun c hc => miss c (List.mem_cons_of_mem _ hc) ?_), hit]
      rintro rfl
      exact (List.nodup_cons.mp hn).1 hc
    · rw [ih (List.nodup_cons.mp hn).2 hal hit (fun c hc => miss c (List.mem_cons_of_mem _ hc)),
        miss b List.mem_cons_self ?_]
      rintro rfl
      exact (List.nodup_cons.mp hn).1 hal

/-- A pixel loop in which no turn touches an observation keeps it. -/
theorem forPixels_miss {γ : Type} {obs : σ → γ} {h w : Nat} {f : Nat → Nat → σ → σ}
    (miss : ∀ y x s, y < h → x < w → obs (f y x s) = obs s) (s : σ) : obs (forPixels h w f s) = obs s :=
  forPixels_keeps (P := fun t => obs t = obs s) rfl fun y x t hy hx ht => by rw [miss y x t hy hx, ht]

/-- A pixel loop in which exactly the turn (`y0`, `x0`) touches an observation does to it what that turn does. -/
theorem forPixels_hit {γ : Type} {obs : σ → γ} {g : γ → γ} {h w : Nat} {f : Nat → Nat → σ → σ} {y0 x0 : Nat}
    (hy : y0 < h) (hx : x0 < w) (hit : ∀ s, obs (f y0 x0 s) = g (obs s))
    (miss : ∀ y x s, y < h → x < w → ¬(y = y0 ∧ x = x0) → obs (f y x s) = obs s) (s : σ) :
    obs (forPixels h w f s) = g (obs s) := by
  unfold forPixels
  refine foldl_hit (a := y0) _ List.nodup_range (List.mem_range.mpr hy) ?_ ?_ s
  · intro s
    refine foldl_hit (a := x0) (f := fun s x => f y0 x s) _ List.nodup_range (List.mem_range.mpr hx) hit ?_ s
    intro x hx' hne s
    exact miss y0 x s hy (List.mem_range.mp hx') fun h => hne h.2
  · intro y hy' hne s
    have hy'' := List.mem_range.mp hy'
    have : ∀ (xs : List Nat), (∀ x ∈ xs, x < w) → ∀ s, obs (xs.foldl (fun s x => f y x s) s) = obs s := by
      intro xs
      induction xs with
      | nil => intro _ s; rfl
      | cons x xs ih =>
        intro hxs s
        rw [List.foldl_cons, ih (fun z hz => hxs z (List.mem_cons_of_mem _ hz)),
          miss y x s hy'' (hxs x List.mem_cons_self) fun h => hne h.1]
    exact this _ (fun x hx => List.mem_range.mp hx) s

end

end Sys2Proof.Machine
end

