-- ==== Sys2Proof/Laws/Flush.lean ====
section
/-! SUPPORT. The flush of a layer: where a cell stands in its cache, what re-decoding one cell does, and what the
whole loop leaves of the flags, the caches and the other buffers. -/

namespace Sys2Proof.Machine

@[simp] theorem Layered.get_set {α : Type} (p : Layered α) (L L' : Layer) (v : α) :
    (p.set L v).get L' = if L' = L then v else p.get L' := by
  cases L <;> cases L' <;> rfl

/-! ### The place of a cell -/

/-- The raster place of a pixel of a cell is inside the layer's surface. -/
theorem cell_inside {cols rows h w i y x : Nat} (hi : i < cols * rows) (hy : y < h) (hx : x < w) :
    i / cols * h + y < rows * h ∧ i % cols * w + x < cols * w := by
  have hc : 0 < cols := Nat.pos_of_ne_zero fun h0 => by simp [h0] at hi
  have h1 : i / cols < rows := Nat.div_lt_of_lt_mul hi
  have h2 : i % cols < cols := Nat.mod_lt _ hc
  constructor
  · calc i / cols * h + y < i / cols * h + h := by omega
      _ = (i / cols + 1) * h := by rw [Nat.add_mul, Nat.one_mul]
      _ ≤ rows * h := Nat.mul_le_mul_right h h1
  · calc i % cols * w + x < i % cols * w + w := by omega
      _ = (i % cols + 1) * w := by rw [Nat.add_mul, Nat.one_mul]
      _ ≤ cols * w := Nat.mul_le_mul_right w h2

theorem mul_add_inj {h a b y z : Nat} (hy : y < h) (hz : z < h) (H : a * h + y = b * h + z) : a = b ∧ y = z := by
  have h0 : 0 < h := by omega
  have ha : (a * h + y) / h = a := by rw [Nat.mul_comm, Nat.mul_add_div h0, Nat.div_eq_of_lt hy, Nat.add_zero]
  have hb : (b * h + z) / h = b := by rw [Nat.mul_comm, Nat.mul_add_div h0, Nat.div_eq_of_lt hz, Nat.add_zero]
  have : a = b := by rw [← ha, H, hb]
  subst this
  exact ⟨rfl, by omega⟩

/-- Cells occupy disjoint parts of the surface (43_dirty.md R562). -/
theorem cell_disjoint {cols h w i j y x y' x' : Nat} (hy : y < h) (hx : x < w) (hy' : y' < h) (hx' : x' < w)
    (H1 : i / cols * h + y = j / cols * h + y') (H2 : i % cols * w + x = j % cols * w + x') :
    i = j ∧ y = y' ∧ x = x' := by
  obtain ⟨a, rfl⟩ := mul_add_inj hy hy' H1
  obtain ⟨b, rfl⟩ := mul_add_inj hx hx' H2
  refine ⟨?_, rfl, rfl⟩
  rw [← Nat.div_add_mod i cols, ← Nat.div_add_mod j cols, a, b]

/-- Every pixel of the surface belongs to a cell. -/
theorem cell_cover {cols rows h w Y X : Nat} (hY : Y < rows * h) (hX : X < cols * w) :
    Y / h * cols + X / w < cols * rows ∧ Y % h < h ∧ X % w < w ∧
      (Y / h * cols + X / w) / cols * h + Y % h = Y ∧ (Y / h * cols + X / w) % cols * w + X % w = X := by
  have hh : 0 < h := Nat.pos_of_ne_zero fun h0 => by simp [h0] at hY
  have hw : 0 < w := Nat.pos_of_ne_zero fun h0 => by simp [h0] at hX
  have h1 : Y / h < rows := Nat.div_lt_of_lt_mul (by rwa [Nat.mul_comm])
  have h2 : X / w < cols := Nat.div_lt_of_lt_mul (by rwa [Nat.mul_comm])
  have hc : 0 < cols := Nat.lt_of_le_of_lt (Nat.zero_le _) h2
  have hd : (Y / h * cols + X / w) / cols = Y / h := by
    rw [Nat.mul_comm, Nat.mul_add_div hc, Nat.div_eq_of_lt h2, Nat.add_zero]
  have hm : (Y / h * cols + X / w) % cols = X / w := by
    rw [Nat.mul_comm, Nat.mul_add_mod, Nat.mod_eq_of_lt h2]
  refine ⟨?_, Nat.mod_lt _ hh, Nat.mod_lt _ hw, ?_, ?_⟩
  · calc Y / h * cols + X / w < Y / h * cols + cols := by omega
      _ = (Y / h + 1) * cols := by rw [Nat.add_mul, Nat.one_mul]
      _ ≤ rows * cols := Nat.mul_le_mul_right cols h1
      _ = cols * rows := Nat.mul_comm _ _
  · rw [hd, Nat.mul_comm]
    exact Nat.div_add_mod Y h
  · rw [hm, Nat.mul_comm]
    exact Nat.div_add_mod X w

/-! ### The block of a cell -/

/-- A cell's block has the size of the layer's tiles. -/
theorem State.at?_cellBlock_isSome (s : State) (L : Layer) (i y x : Nat) :
    (Surface.at? (s.cellBlock L i) y x).isSome = true ↔
      y < (s.cfg.layerLayout L).tileHeight ∧ x < (s.cfg.layerLayout L).tileWidth := by
  simp [State.cellBlock, decodeTile, Config.layerLayout]

/-! ### One cell -/

theorem State.sized_cellDecode (s : State) (L : Layer) (i : Nat) (S : Surface PixelRec) (h w : Nat) :
    Surface.sized (s.cellDecode L i S) h w = Surface.sized S h w := by
  unfold State.cellDecode
  exact forPixels_keeps (P := fun T => Surface.sized T h w = Surface.sized S h w) rfl
    fun y x T _ _ hT => by rw [Surface.sized_put, hT]

/-- Re-decoding a cell shows its block at the cell's own place. -/
theorem State.at?_cellDecode_same (s : State) (L : Layer) (i : Nat) (S : Surface PixelRec)
    (hs : Surface.sized S (s.cfg.surfaceH L) (s.cfg.surfaceW L) = true) (hi : i < s.cfg.cellCount L) {y x : Nat}
    (hy : y < (s.cfg.layerLayout L).tileHeight) (hx : x < (s.cfg.layerLayout L).tileWidth) :
    Surface.at? (s.cellDecode L i S) (i / (s.cfg.layers.get L).cols * (s.cfg.layerLayout L).tileHeight + y)
        (i % (s.cfg.layers.get L).cols * (s.cfg.layerLayout L).tileWidth + x)
      = Surface.at? (s.cellBlock L i) y x := by
  unfold State.cellDecode
  simp only
  rw [forPixels_hit (obs := fun T => Surface.at? T
      (i / (s.cfg.layers.get L).cols * (s.cfg.layerLayout L).tileHeight + y)
      (i % (s.cfg.layers.get L).cols * (s.cfg.layerLayout L).tileWidth + x))
    (g := Option.map fun _ => Surface.getD (s.cellBlock L i) y x default) hy hx]
  · have h1 := (Surface.at?_isSome hs).mpr (cell_inside hi hy hx)
    have h2 := (State.at?_cellBlock_isSome s L i y x).mpr ⟨hy, hx⟩
    obtain ⟨a, ha⟩ := Option.isSome_iff_exists.mp h1
    obtain ⟨b, hb⟩ := Option.isSome_iff_exists.mp h2
    simp only [ha, hb, Surface.getD, Option.map_some, Option.getD_some]
  · intro T
    rw [Surface.at?_put]
    simp
  · intro y' x' T hy' hx' hne
    rw [Surface.at?_put, if_neg]
    rintro ⟨e1, e2⟩
    have := cell_disjoint hy hx hy' hx' e1 e2
    exact hne ⟨this.2.1.symm, this.2.2.symm⟩

/-- Re-decoding a cell leaves the place of every other cell. -/
theorem State.at?_cellDecode_other (s : State) (L : Layer) (i j : Nat) (S : Surface PixelRec) (hij : j ≠ i)
    {y x : Nat} (hy : y < (s.cfg.layerLayout L).tileHeight) (hx : x < (s.cfg.layerLayout L).tileWidth) :
    Surface.at? (s.cellDecode L i S) (j / (s.cfg.layers.get L).cols * (s.cfg.layerLayout L).tileHeight + y)
        (j % (s.cfg.layers.get L).cols * (s.cfg.layerLayout L).tileWidth + x)
      = Surface.at? S (j / (s.cfg.layers.get L).cols * (s.cfg.layerLayout L).tileHeight + y)
          (j % (s.cfg.layers.get L).cols * (s.cfg.layerLayout L).tileWidth + x) := by
  unfold State.cellDecode
  exact forPixels_miss (obs := fun T => Surface.at? T
      (j / (s.cfg.layers.get L).cols * (s.cfg.layerLayout L).tileHeight + y)
      (j % (s.cfg.layers.get L).cols * (s.cfg.layerLayout L).tileWidth + x))
    (fun y' x' T hy' hx' => by
      rw [Surface.at?_put, if_neg]
      rintro ⟨e1, e2⟩
      exact hij (cell_disjoint hy hx hy' hx' e1 e2).1) S

/-! ### The flags -/

@[simp] theorem VideoState.setDirty_cache (v : VideoState) (L : Layer) (i : Nat) (b : Bool) :
    (v.setDirty L i b).cache = v.cache := rfl
@[simp] theorem VideoState.setDirty_out (v : VideoState) (L : Layer) (i : Nat) (b : Bool) :
    (v.setDirty L i b).out = v.out := rfl
@[simp] theorem VideoState.setDirty_acc (v : VideoState) (L : Layer) (i : Nat) (b : Bool) :
    (v.setDirty L i b).acc = v.acc := rfl

theorem VideoState.setDirty_length (v : VideoState) (L L' : Layer) (i : Nat) (b : Bool) :
    ((v.setDirty L i b).dirty.get L').length = (v.dirty.get L').length := by
  simp only [VideoState.setDirty, Layered.get_set]
  split
  · next h => subst h; simp
  · rfl

/-- Writing one flag inside the layer changes that flag only. -/
theorem VideoState.isDirty_setDirty (v : VideoState) {L : Layer} {i : Nat} (b : Bool)
    (hi : i < (v.dirty.get L).length) (L' : Layer) (j : Nat) :
    (v.setDirty L i b).isDirty L' j = if L' = L ∧ j = i then b else v.isDirty L' j := by
  simp only [VideoState.isDirty, VideoState.setDirty, Layered.get_set]
  by_cases hL : L' = L
  · subst hL
    simp only [if_true, true_and, List.getElem?_set]
    by_cases hj : j = i
    · subst hj
      simp [hi]
    · simp [hj, Ne.symm hj]
  · simp [hL]

/-- The flags a started video has are those of the layer's cells. -/
theorem VideoState.sized_iff (v : VideoState) (c : Config) : v.sized c = true ↔
    (∀ L, (v.dirty.get L).length = c.cellCount L) ∧
    (∀ L, Surface.sized (v.cache.get L) (c.surfaceH L) (c.surfaceW L) = true) ∧
    Surface.sized v.out c.raster.visH c.raster.visW = true ∧
    Surface.sized v.acc c.raster.visH c.raster.visW = true := by
  simp only [VideoState.sized, Bool.and_eq_true, decide_eq_true_eq]
  constructor
  · rintro ⟨⟨⟨⟨⟨a, b⟩, c'⟩, d⟩, e⟩, f⟩
    exact ⟨fun L => by cases L <;> assumption, fun L => by cases L <;> assumption, e, f⟩
  · rintro ⟨a, b, c', d⟩
    exact ⟨⟨⟨⟨⟨a .bg, a .fg⟩, b .bg⟩, b .fg⟩, c'⟩, d⟩

/-! ### The loop -/

/-- What one turn of the flush loop leaves. -/
theorem State.flushCell_frame (s : State) (L : Layer) (v : VideoState) (i : Nat) :
    (s.flushCell L v i).out = v.out ∧ (s.flushCell L v i).acc = v.acc ∧
      (∀ L', L' ≠ L → (s.flushCell L v i).cache.get L' = v.cache.get L') := by
  unfold State.flushCell
  split
  · exact ⟨rfl, rfl, fun L' h => by simp [h]⟩
  · exact ⟨rfl, rfl, fun _ _ => rfl⟩

theorem State.flushCell_sized (s : State) (L : Layer) {v : VideoState} (i : Nat) (hv : v.sized s.cfg = true) :
    (s.flushCell L v i).sized s.cfg = true := by
  unfold State.flushCell
  split
  · obtain ⟨a, b, c, d⟩ := (VideoState.sized_iff v s.cfg).mp hv
    refine (VideoState.sized_iff _ _).mpr ⟨fun L' => ?_, fun L' => ?_, c, d⟩
    · rw [VideoState.setDirty_length]
      exact a L'
    · simp only [VideoState.setDirty_cache, Layered.get_set]
      split
      · next h => subst h; rw [State.sized_cellDecode]; exact b L'
      · exact b L'
  · exact hv

/-- What the flush loop over a list of cells without repeats leaves. -/
theorem State.flushCells_spec (s : State) (L : Layer) : ∀ (l : List Nat) (v : VideoState), l.Nodup →
    (∀ i ∈ l, i < s.cfg.cellCount L) → v.sized s.cfg = true →
    let v' := l.foldl (s.flushCell L) v
    v'.sized s.cfg = true ∧ v'.out = v.out ∧ v'.acc = v.acc ∧
      (∀ L', L' ≠ L → v'.cache.get L' = v.cache.get L') ∧
      (∀ L' j, v'.isDirty L' j = if L' = L ∧ j ∈ l then false else v.isDirty L' j) ∧
      (∀ j y x, y < (s.cfg.layerLayout L).tileHeight → x < (s.cfg.layerLayout L).tileWidth →
        Surface.at? (v'.cache.get L) (j / (s.cfg.layers.get L).cols * (s.cfg.layerLayout L).tileHeight + y)
            (j % (s.cfg.layers.get L).cols * (s.cfg.layerLayout L).tileWidth + x) =
          if j ∈ l ∧ v.isDirty L j = true then Surface.at? (s.cellBlock L j) y x
          else Surface.at? (v.cache.get L) (j / (s.cfg.layers.get L).cols * (s.cfg.layerLayout L).tileHeight + y)
            (j % (s.cfg.layers.get L).cols * (s.cfg.layerLayout L).tileWidth + x)) := by
  intro l
  induction l with
  | nil => intro v _ _ hv; simp [hv]
  | cons i l ih =>
    intro v hn hl hv
    obtain ⟨hil, hnl⟩ := List.nodup_cons.mp hn
    have hi := hl i List.mem_cons_self
    have hsz := (VideoState.sized_iff v s.cfg).mp hv
    have hd : ∀ L' j, (s.flushCell L v i).isDirty L' j = if L' = L ∧ j = i then false else v.isDirty L' j := by
      intro L' j
      unfold State.flushCell
      split
      · rw [VideoState.isDirty_setDirty _ _ (by simpa [hsz.1 L] using hi)]
        rfl
      · next h =>
        split
        · next h2 => obtain ⟨rfl, rfl⟩ := h2; simpa using h
        · rfl
    obtain ⟨e1, e2, e3, e4, e5, e6⟩ := ih (s.flushCell L v i) hnl (fun j hj => hl j (List.mem_cons_of_mem _ hj))
      (s.flushCell_sized L i hv)
    obtain ⟨f1, f2, f3⟩ := s.flushCell_frame L v i
    rw [List.foldl_cons]
    refine ⟨e1, e2.trans f1, e3.trans f2, fun L' h => (e4 L' h).trans (f3 L' h), fun L' j => ?_, fun j y x hy hx => ?_⟩
    · rw [e5, hd]
      by_cases h1 : L' = L <;> by_cases h2 : j = i <;> by_cases h3 : j ∈ l <;> simp [h1, h2, h3]
    · rw [e6 j y x hy hx, hd]
      by_cases hji : j = i
      · subst hji
        simp only [hil, false_and, if_false, List.mem_cons, true_or, true_and]
        unfold State.flushCell
        split
        · simp only [VideoState.setDirty_cache, Layered.get_set, if_true]
          exact s.at?_cellDecode_same L j _ (hsz.2.1 L) hi hy hx
        · rfl
      · have : Surface.at? ((s.flushCell L v i).cache.get L)
            (j / (s.cfg.layers.get L).cols * (s.cfg.layerLayout L).tileHeight + y)
            (j % (s.cfg.layers.get L).cols * (s.cfg.layerLayout L).tileWidth + x) =
          Surface.at? (v.cache.get L) (j / (s.cfg.layers.get L).cols * (s.cfg.layerLayout L).tileHeight + y)
            (j % (s.cfg.layers.get L).cols * (s.cfg.layerLayout L).tileWidth + x) := by
          unfold State.flushCell
          split
          · simp only [VideoState.setDirty_cache, Layered.get_set, if_true]
            exact s.at?_cellDecode_other L i j _ hji hy hx
          · rfl
        rw [this]
        simp [hji]

/-- What FLUSHDIRTY's loop leaves of the video buffers (43_dirty.md R560 to R562): every flag of the layer is
clean, every cell that was dirty shows its block, and nothing else changes. -/
theorem State.flushLayer_spec (s : State) (L : Layer) {v : VideoState} (hv : v.sized s.cfg = true) :
    let v' := s.flushLayer L v
    v'.sized s.cfg = true ∧ v'.out = v.out ∧ v'.acc = v.acc ∧
      (∀ L', L' ≠ L → v'.cache.get L' = v.cache.get L') ∧
      (∀ L' j, v'.isDirty L' j = if L' = L ∧ j < s.cfg.cellCount L then false else v.isDirty L' j) ∧
      (∀ j, j < s.cfg.cellCount L → ∀ y x, y < (s.cfg.layerLayout L).tileHeight →
        x < (s.cfg.layerLayout L).tileWidth →
        Surface.at? (v'.cache.get L) (j / (s.cfg.layers.get L).cols * (s.cfg.layerLayout L).tileHeight + y)
            (j % (s.cfg.layers.get L).cols * (s.cfg.layerLayout L).tileWidth + x) =
          if v.isDirty L j = true then Surface.at? (s.cellBlock L j) y x
          else Surface.at? (v.cache.get L) (j / (s.cfg.layers.get L).cols * (s.cfg.layerLayout L).tileHeight + y)
            (j % (s.cfg.layers.get L).cols * (s.cfg.layerLayout L).tileWidth + x)) := by
  obtain ⟨a, b, c, d, e, f⟩ := s.flushCells_spec L (List.range (s.cfg.cellCount L)) v List.nodup_range
    (fun i hi => List.mem_range.mp hi) hv
  refine ⟨a, b, c, d, fun L' j => ?_, fun j hj y x hy hx => ?_⟩
  · have := e L' j
    simp only [List.mem_range] at this
    exact this
  · have := f j y x hy hx
    simp only [List.mem_range, hj, true_and] at this
    exact this

end Sys2Proof.Machine
end

