-- ==== Sys2Proof/Laws/Check.lean ====
section
/-! SUPPORT. The well-formed machine and the cache invariant of one concrete state, from checks that evaluate. -/

namespace Sys2Proof.Machine

/-- Every condition of `State.Inv` but the configuration's, as one check. -/
def State.invCheck (s : State) : Bool :=
  decide (s.bank < s.cfg.bank.bankCount) && decide (s.ram.length = s.cfg.bus.ramSize.length)
    && (List.range s.ram.length).all (fun r => Memory.fits ((s.ram[r]?).getD []) (s.cfg.ramSize r))
    && Planes.fits s.vram.bg (s.cfg.cellCount .bg) && Planes.fits s.vram.fg (s.cfg.cellCount .fg)
    && Memory.fits s.sprram s.cfg.sprramSize && s.video.all (fun v => v.sized s.cfg)

/-- A checked configuration and the check give the well-formed machine. -/
theorem State.inv_of_check {s : State} (hv : s.cfg.valid = true) (h : s.invCheck = true) : s.Inv := by
  simp only [State.invCheck, Bool.and_eq_true, decide_eq_true_eq, List.all_eq_true, List.mem_range] at h
  obtain ⟨⟨⟨⟨⟨⟨h1, h2⟩, h3⟩, h4⟩, h5⟩, h6⟩, h7⟩ := h
  refine ⟨hv, h1, h2, fun r m hm => ?_, fun L => ?_, h6, fun v hs => ?_⟩
  · have hr : r < s.ram.length := (List.getElem?_eq_some_iff.mp hm).1
    have := h3 r hr
    rwa [hm] at this
  · cases L
    · exact h4
    · exact h5
  · rw [hs] at h7
    exact h7

/-- Every clean cell of a started video, as one check. -/
def State.cacheCheck (s : State) : Bool :=
  s.video.all fun v => [Layer.bg, Layer.fg].all fun L => (List.range (s.cfg.cellCount L)).all fun i =>
    v.isDirty L i || (List.range (s.cfg.layerLayout L).tileHeight).all fun y =>
      (List.range (s.cfg.layerLayout L).tileWidth).all fun x =>
        decide (Surface.at? (v.cache.get L) (i / (s.cfg.layers.get L).cols * (s.cfg.layerLayout L).tileHeight + y)
          (i % (s.cfg.layers.get L).cols * (s.cfg.layerLayout L).tileWidth + x) = Surface.at? (s.cellBlock L i) y x)

/-- The check gives the cache invariant. -/
theorem State.cacheInv_of_check {s : State} (h : s.cacheCheck = true) : s.CacheInv := by
  intro v hv L i hi hd y x hy hx
  unfold State.cacheCheck at h
  rw [hv] at h
  simp only [Option.all_some, List.all_eq_true, List.mem_range, Bool.or_eq_true, decide_eq_true_eq] at h
  rcases h L (by cases L <;> simp) i hi with h | h
  · rw [h] at hd
    cases hd
  · exact h y hy x hx

end Sys2Proof.Machine
end

