-- ==== Sys2Proof/Laws/Memory.lean ====
section
/-! SUPPORT. The sparse memory: a read after a write, and the canonical form under every operation. -/

namespace Sys2Proof

@[simp] theorem Memory.read_nil (i : Nat) : Memory.read [] i = Memory.unwritten := rfl

theorem Memory.read_cons (c : Host.Cell) (m : Memory) (i : Nat) :
    Memory.read (c :: m) i = if c.1 = i then c.2 else Memory.read m i := rfl

/-- An address no cell lists reads as an unwritten byte. -/
theorem Memory.read_unlisted {m : Memory} {i : Nat} (h : ∀ c ∈ m, c.1 ≠ i) : m.read i = Memory.unwritten := by
  induction m with
  | nil => rfl
  | cons c m ih =>
    rw [Memory.read_cons, if_neg (h c List.mem_cons_self), ih fun d hd => h d (List.mem_cons_of_mem _ hd)]

theorem Memory.read_erase (m : Memory) (i j : Nat) :
    (Memory.erase m i).read j = if j = i then Memory.unwritten else m.read j := by
  unfold Memory.erase
  induction m with
  | nil => simp
  | cons c m ih =>
    simp only [List.filter_cons]
    by_cases hc : c.1 = i
    · simp only [hc, bne_self_eq_false, Bool.false_eq_true, if_false]
      rw [ih, Memory.read_cons]
      by_cases hj : j = i
      · simp [hj]
      · simp [hj, hc, Ne.symm hj]
    · simp only [bne_iff_ne, ne_eq, hc, not_false_eq_true, if_true]
      rw [Memory.read_cons, Memory.read_cons, ih]
      by_cases hj : j = i
      · subst hj
        simp [hc]
      · simp [hj]

theorem Memory.read_put {m : Memory} {i : Nat} (v : Byte) (h : ∀ c ∈ m, c.1 ≠ i) (j : Nat) :
    (Memory.put i v m).read j = if j = i then v else m.read j := by
  induction m with
  | nil => simp [Memory.put, Memory.read_cons, eq_comm]
  | cons c m ih =>
    have hc := h c List.mem_cons_self
    unfold Memory.put
    split
    · rw [Memory.read_cons]
      by_cases hj : j = i
      · simp [hj]
      · simp [hj, Ne.symm hj]
    · rw [Memory.read_cons, Memory.read_cons, ih fun d hd => h d (List.mem_cons_of_mem _ hd)]
      by_cases hj : j = i
      · subst hj
        simp [hc]
      · simp [hj]

theorem Memory.erase_unlisted (m : Memory) (i : Nat) : ∀ c ∈ Memory.erase m i, c.1 ≠ i := by
  intro c hc
  simpa using (List.mem_filter.mp hc).2

/-- A read after a write: the written byte gives the value, every other byte is as before. -/
theorem Memory.read_write (m : Memory) (i : Nat) (v : Byte) (j : Nat) :
    (Memory.write m i v).read j = if j = i then v else m.read j := by
  unfold Memory.write
  split
  · next hv => rw [Memory.read_erase, hv]
  · rw [Memory.read_put v (Memory.erase_unlisted m i), Memory.read_erase]
    split <;> rfl

/-! ### The canonical form -/

theorem Memory.wf_cons (c : Host.Cell) (m : Memory) :
    Memory.wf (c :: m) = true ↔ c.2 ≠ Memory.unwritten ∧ (∀ d ∈ m, c.1 < d.1) ∧ Memory.wf m = true := by
  simp [Memory.wf, and_assoc]

theorem Memory.wf_erase {m : Memory} (i : Nat) (h : m.wf = true) : (Memory.erase m i).wf = true := by
  unfold Memory.erase
  induction m with
  | nil => rfl
  | cons c m ih =>
    obtain ⟨h1, h2, h3⟩ := (Memory.wf_cons c m).mp h
    rw [List.filter_cons]
    split
    · exact (Memory.wf_cons _ _).mpr ⟨h1, fun d hd => h2 d (List.mem_filter.mp hd).1, ih h3⟩
    · exact ih h3

theorem Memory.mem_put {i : Nat} {v : Byte} {m : Memory} {c : Host.Cell} :
    c ∈ Memory.put i v m ↔ c = (i, v) ∨ c ∈ m := by
  induction m with
  | nil => simp [Memory.put]
  | cons d m ih =>
    unfold Memory.put
    split
    · simp
    · simp only [List.mem_cons, ih]
      tauto

theorem Memory.wf_put {m : Memory} {i : Nat} {v : Byte} (hv : v ≠ Memory.unwritten) (hi : ∀ c ∈ m, c.1 ≠ i)
    (h : m.wf = true) : (Memory.put i v m).wf = true := by
  induction m with
  | nil => simp [Memory.put, Memory.wf, hv]
  | cons c m ih =>
    obtain ⟨h1, h2, h3⟩ := (Memory.wf_cons c m).mp h
    unfold Memory.put
    split
    · next hlt =>
      refine (Memory.wf_cons _ _).mpr ⟨hv, fun d hd => ?_, h⟩
      rcases List.mem_cons.mp hd with rfl | hd
      · exact hlt
      · exact Nat.lt_trans hlt (h2 d hd)
    · next hge =>
      refine (Memory.wf_cons _ _).mpr ⟨h1, fun d hd => ?_, ih (fun e he => hi e (List.mem_cons_of_mem _ he)) h3⟩
      rcases Memory.mem_put.mp hd with rfl | hd
      · have := hi c List.mem_cons_self
        simp only
        omega
      · exact h2 d hd

/-- A write keeps the canonical form. -/
theorem Memory.wf_write {m : Memory} (i : Nat) (v : Byte) (h : m.wf = true) : (Memory.write m i v).wf = true := by
  unfold Memory.write
  split
  · exact Memory.wf_erase i h
  · next hv => exact Memory.wf_put hv (Memory.erase_unlisted m i) (Memory.wf_erase i h)

/-- A write inside a bound keeps every address inside it. -/
theorem Memory.below_write {m : Memory} {n i : Nat} (v : Byte) (hi : i < n) (h : m.below n = true) :
    (Memory.write m i v).below n = true := by
  unfold Memory.below at *
  simp only [List.all_eq_true, decide_eq_true_eq] at *
  intro c hc
  unfold Memory.write at hc
  split at hc
  · exact h c (List.mem_filter.mp hc).1
  · rcases Memory.mem_put.mp hc with rfl | hc
    · exact hi
    · exact h c (List.mem_filter.mp hc).1

/-- Two canonical memories that read alike are equal. -/
theorem Memory.ext_wf {m n : Memory} (hm : m.wf = true) (hn : n.wf = true) (H : ∀ i, m.read i = n.read i) : m = n := by
  induction m generalizing n with
  | nil =>
    cases n with
    | nil => rfl
    | cons d n =>
      have := H d.1
      rw [Memory.read_cons, if_pos rfl] at this
      exact absurd this.symm ((Memory.wf_cons d n).mp hn).1
  | cons c m ih =>
    obtain ⟨c1, c2, c3⟩ := (Memory.wf_cons c m).mp hm
    have tail_unlisted : ∀ {a : Host.Cell} {l : Memory}, (∀ e ∈ l, a.1 < e.1) → ∀ i, i ≤ a.1 →
        Memory.read l i = Memory.unwritten := fun hl i hi =>
      Memory.read_unlisted fun e he => by have := hl e he; omega
    cases n with
    | nil =>
      have := H c.1
      rw [Memory.read_cons, if_pos rfl] at this
      exact absurd this c1
    | cons d n =>
      obtain ⟨d1, d2, d3⟩ := (Memory.wf_cons d n).mp hn
      have hcd : c.1 = d.1 := by
        rcases Nat.lt_trichotomy c.1 d.1 with h | h | h
        · have := H c.1
          rw [Memory.read_cons, if_pos rfl, Memory.read_cons, if_neg (by omega), tail_unlisted d2 c.1 (by omega)] at this
          exact absurd this c1
        · exact h
        · have := H d.1
          rw [Memory.read_cons, if_neg (by omega), Memory.read_cons, if_pos rfl, tail_unlisted c2 d.1 (by omega)] at this
          exact absurd this.symm d1
      have hv : c.2 = d.2 := by
        have := H c.1
        rwa [Memory.read_cons, if_pos rfl, Memory.read_cons, if_pos hcd.symm] at this
      have ht : m = n := ih c3 d3 fun i => by
        by_cases hi : i = c.1
        · rw [tail_unlisted c2 i (by omega), tail_unlisted d2 i (by omega)]
        · have := H i
          rwa [Memory.read_cons, if_neg (by omega), Memory.read_cons, if_neg (by omega)] at this
      rw [Prod.ext hcd hv, ht]

end Sys2Proof
end

