-- ==== Sys2Proof/Laws/Perform.lean ====
section
/-! SUPPORT. Performing a command: what `perform`, `finish`, `raiseFault` and `step` can answer. -/

namespace Sys2Proof.Machine

/-- On a machine that performs commands, `perform` runs the command's body. -/
theorem perform_ready {s : State} (hv : s.cfg.valid = true) (hf : s.fault = none)
    (body : State → Host.Outcome State Fault Refusal) : perform s body = body s := by
  simp [perform, hv, hf]

/-- After a fault, `perform` only returns `halted`. -/
theorem perform_halted {s : State} {r : FaultReason} (hv : s.cfg.valid = true) (hf : s.fault = some r)
    (body : State → Host.Outcome State Fault Refusal) :
    perform s body = .next { s with result := some .halted } := by
  simp [perform, hv, hf, finish]

/-- On a rejected configuration no command is performed. -/
theorem perform_rejected {s : State} (hv : ¬ s.cfg.valid = true)
    (body : State → Host.Outcome State Fault Refusal) : perform s body = .refused .configRejected := by
  simp [perform, hv]

/-- All that `perform` can do when it answers a next state. -/
theorem perform_cases {s t : State} {body : State → Host.Outcome State Fault Refusal}
    (h : perform s body = .next t) :
    s.cfg.valid = true ∧ ((s.fault = none ∧ body s = .next t) ∨
      (s.fault ≠ none ∧ t = { s with result := some .halted })) := by
  by_cases hv : s.cfg.valid = true
  · by_cases hf : s.fault = none
    · exact ⟨hv, .inl ⟨hf, by rwa [perform_ready hv hf] at h⟩⟩
    · obtain ⟨r, hr⟩ := Option.ne_none_iff_exists'.mp hf
      rw [perform_halted hv hr] at h
      exact ⟨hv, .inr ⟨hf, (Host.Outcome.next.inj h).symm⟩⟩
  · rw [perform_rejected hv] at h
    cases h

theorem finish_eq_next {r : CmdResult} {s t : State} (h : finish r s = .next t) :
    t = { s with result := some r } := (Host.Outcome.next.inj h).symm

theorem raiseFault_eq_next {r : FaultReason} {s t : State} (h : raiseFault r s = .next t) :
    t = { s with fault := some r, result := some .fault } := (Host.Outcome.next.inj h).symm

/-- With no command issued, a step changes nothing. -/
theorem step_idle {s : State} (h : s.commands = []) : step s = .next s := by
  simp [step, State.nextCommand, h]

/-- A step on a legal word runs the command the word stands for, from the state without that word. -/
theorem step_legal {s : State} {w : Word} {rest : List Word} {i : Instr} (h : s.commands = w :: rest)
    (hi : legalCommand s.cfg w = some i) : step s = exec i { s with commands := rest } := by
  simp [step, State.nextCommand, h, hi]

/-- A step on an illegal word performs the raising of IllegalCommand. -/
theorem step_illegal {s : State} {w : Word} {rest : List Word} (h : s.commands = w :: rest)
    (hi : legalCommand s.cfg w = none) :
    step s = perform { s with commands := rest } (raiseFault .illegalCommand) := by
  simp [step, State.nextCommand, h, hi]

/-- All that a step can do. -/
theorem step_cases (s : State) :
    (s.commands = [] ∧ step s = .next s) ∨
    ∃ w rest, s.commands = w :: rest ∧
      ((∃ i, legalCommand s.cfg w = some i ∧ step s = exec i { s with commands := rest }) ∨
        (legalCommand s.cfg w = none ∧
          step s = perform { s with commands := rest } (raiseFault .illegalCommand))) := by
  cases h : s.commands with
  | nil => exact .inl ⟨rfl, step_idle h⟩
  | cons w rest =>
    refine .inr ⟨w, rest, rfl, ?_⟩
    cases hi : legalCommand s.cfg w with
    | none => exact .inr ⟨rfl, step_illegal h hi⟩
    | some i => exact .inl ⟨i, rfl, step_legal h hi⟩

end Sys2Proof.Machine
end

