-- ==== Sys2Proof/Laws/Router.lean ====
section
/-! SUPPORT. The router: the range an address is found in, the store byte a range reaches, and what one store
write leaves of every byte. -/

namespace Sys2Proof.Machine

/-- The range the router finds is in the table and covers the address (40_dispatch.md R401). -/
theorem findRange_spec {c : Config} {cpu : Cpu} {space : Space} {a : Addr} {r : AddressRange}
    (h : findRange c cpu space a = some r) :
    r ∈ c.busMap cpu space ∧ r.start.toNat ≤ a.toNat ∧ a.toNat ≤ r.stop.toNat := by
  unfold findRange at h
  have h2 := List.find?_some h
  simp only [Bool.and_eq_true, decide_eq_true_eq] at h2
  exact ⟨List.mem_of_find?_eq_some h, h2.1, h2.2⟩

/-- An address of no range is unmapped (40_dispatch.md R401). -/
theorem findRange_none {c : Config} {cpu : Cpu} {space : Space} {a : Addr} (h : findRange c cpu space a = none) :
    ∀ r ∈ c.busMap cpu space, ¬(r.start.toNat ≤ a.toNat ∧ a.toNat ≤ r.stop.toNat) := by
  unfold findRange at h
  intro r hr hc
  have := (List.find?_eq_none.mp h) r hr
  simp [hc.1, hc.2] at this

/-! ### What a checked configuration gives -/

theorem Config.valid_typed {c : Config} (h : c.valid = true) : c.typed = true := by
  simp only [Config.valid, Bool.and_eq_true] at h; tauto

theorem Config.valid_tables {c : Config} (h : c.valid = true) (cpu : Cpu) : c.tablesValid cpu = true := by
  simp only [Config.valid, Bool.and_eq_true] at h
  cases cpu <;> tauto

theorem Config.valid_unshared {c : Config} (h : c.valid = true) : c.unshared = true := by
  simp only [Config.valid, Bool.and_eq_true] at h; tauto

theorem Config.valid_layouts {c : Config} (h : c.valid = true) : c.layoutsValid = true := by
  simp only [Config.valid, Bool.and_eq_true] at h; tauto

theorem Config.mem_ranges {c : Config} {cpu : Cpu} {space : Space} {r : AddressRange} (h : r ∈ c.busMap cpu space) :
    r ∈ c.ranges cpu := by
  unfold Config.ranges
  cases space <;> simp [h]

/-- The checks a range of a checked table passes (60_exceptions.md R851, R853, R855). -/
theorem Config.range_checked {c : Config} (hv : c.valid = true) {cpu : Cpu} {space : Space} {r : AddressRange}
    (h : r ∈ c.busMap cpu space) :
    r.reaches c = true ∧ r.handlersAssigned = true ∧ r.mailboxSide cpu = true := by
  have := Config.valid_tables hv cpu
  simp only [Config.tablesValid, Bool.and_eq_true, List.all_eq_true] at this
  have := this.2 r (Config.mem_ranges h)
  tauto

/-- The bank count of a checked configuration is at least 1, and its reset bank is a bank (00_scope.md R11). -/
theorem Config.valid_bank {c : Config} (hv : c.valid = true) :
    1 ≤ c.bank.bankCount ∧ c.bank.bankOutOfRange.typed c.bank.bankCount = true ∧
      c.bank.bankResetValue < c.bank.bankCount := by
  have := Config.valid_typed hv
  simp only [Config.typed, BankCfg.typed, Bool.and_eq_true, decide_eq_true_eq] at this
  tauto

/-- The offset grows with the bank and the address. -/
theorem AddressRange.offset_mono (r : AddressRange) (bankSize : Nat) {b b' : Nat} {a a' : Addr} (hb : b ≤ b')
    (ha : a.toNat ≤ a'.toNat) : r.offset bankSize b a ≤ r.offset bankSize b' a' := by
  have hm : b * bankSize ≤ b' * bankSize := Nat.mul_le_mul_right _ hb
  unfold AddressRange.offset
  simp only
  split
  · split <;> omega
  · split <;> omega
  · omega
  · omega

/-! ### Store bytes -/

/-- Where the located byte stands. -/
theorem State.locate_spec {s : State} {r : AddressRange} {a : Addr} {l : Loc} (h : s.locate r a = some l) :
    r.offset s.cfg.bank.bankSize s.bank a < s.cfg.storeSize r.kind ∧
    ((∃ region base banked, r.kind = .rom region base banked ∧
        l = .rom region (r.offset s.cfg.bank.bankSize s.bank a)) ∨
     (∃ region base banked, r.kind = .ram region base banked ∧
        l = .ram region (r.offset s.cfg.bank.bankSize s.bank a)) ∨
     (∃ L base, r.kind = .vid (.tilemap L) base ∧
        l = .tile L (r.offset s.cfg.bank.bankSize s.bank a / s.cfg.cellCount L)
          (r.offset s.cfg.bank.bankSize s.bank a % s.cfg.cellCount L)) ∨
     (∃ base, r.kind = .vid .sprite base ∧ l = .sprite (r.offset s.cfg.bank.bankSize s.bank a))) := by
  unfold State.locate at h
  simp only at h
  split at h
  · next hlt =>
    refine ⟨hlt, ?_⟩
    split at h
    · next hk => exact .inl ⟨_, _, _, hk, (Option.some.inj h).symm⟩
    · next hk => exact .inr (.inl ⟨_, _, _, hk, (Option.some.inj h).symm⟩)
    · next hk => exact .inr (.inr (.inl ⟨_, _, hk, (Option.some.inj h).symm⟩))
    · next hk => exact .inr (.inr (.inr ⟨_, hk, (Option.some.inj h).symm⟩))
    · cases h
  · cases h

/-- A range that is not a register range locates a byte exactly when its offset is inside its store. -/
theorem State.locate_isSome {s : State} {r : AddressRange} {a : Addr} (hr : ∀ rh wh arg, r.kind ≠ .reg rh wh arg)
    (h : r.offset s.cfg.bank.bankSize s.bank a < s.cfg.storeSize r.kind) : ∃ l, s.locate r a = some l := by
  unfold State.locate
  simp only [h, if_true]
  split
  · exact ⟨_, rfl⟩
  · exact ⟨_, rfl⟩
  · exact ⟨_, rfl⟩
  · exact ⟨_, rfl⟩
  · next hk => exact absurd hk (hr _ _ _)

/-- The byte of one plane after a write to one plane. -/
theorem Planes.plane_write (v : Planes) (p i : Nat) (b : Byte) (q : Nat) :
    (v.write p i b).plane q = if (q = 0 ↔ p = 0) then (v.plane q).write i b else v.plane q := by
  unfold Planes.write Planes.plane
  by_cases hp : p = 0 <;> by_cases hq : q = 0 <;> simp [hp, hq]

@[simp] theorem State.markDirty_ramByte (s : State) (L : Layer) (i r o : Nat) :
    (s.markDirty L i).ramByte r o = s.ramByte r o := rfl
@[simp] theorem State.markDirty_sprramByte (s : State) (L : Layer) (i o : Nat) :
    (s.markDirty L i).sprramByte o = s.sprramByte o := rfl
@[simp] theorem State.markDirty_vramByte (s : State) (L L' : Layer) (i p o : Nat) :
    (s.markDirty L i).vramByte L' p o = s.vramByte L' p o := rfl

/-- What a store write leaves outside the three memories, the dirty flags aside. -/
theorem State.writeLoc_frame (s : State) (l : Loc) (v : Byte) :
    s.writeLoc l v = { s with
      ram := (s.writeLoc l v).ram
      vram := (s.writeLoc l v).vram
      sprram := (s.writeLoc l v).sprram
      video := (s.writeLoc l v).video } := by
  cases l <;> rfl

end Sys2Proof.Machine
end

