-- ==== Sys2Proof/Laws/Exec.lean ====
section
/-! SUPPORT. What `exec` of each command performs, and what the router's two operations answer in each kind of
range. The provers cite these instead of unfolding a meaning. -/

namespace Sys2Proof.Machine

section
variable (s : State)

theorem exec_busrd (cpu : Cpu) (sp : Space) (a : Addr) :
    exec (.busrd cpu sp a) s = perform s fun s => s.memRead cpu sp a := rfl
theorem exec_buswr (cpu : Cpu) (sp : Space) (a : Addr) (v : Byte) :
    exec (.buswr cpu sp a v) s = perform s fun s => s.memWrite cpu sp a v := rfl
theorem exec_selbank (v : Byte) : exec (.selbank v) s = perform s fun s => finish .ok (s.selectBank v) := rfl
theorem exec_decode (k : BitVec 3) (t : BitVec 12) (c : BitVec 11) (fx fy : Bool) :
    exec (.decode k t c fx fy) s = perform s fun s =>
      if (Instr.decode k t c fx fy).wellFormed s.cfg then
        finish (.block (decodeTile s.cfg k.toNat t.toNat c.toNat fx fy)) s
      else raiseFault .illegalCommand s := rfl
theorem exec_markdirty (L : Layer) (i : BitVec 16) :
    exec (.markdirty L i) s = perform s fun s => finish .ok (s.markDirty L i.toNat) := rfl
theorem exec_flushdirty (L : Layer) : exec (.flushdirty L) s = perform s fun s =>
    match s.video with
    | none => raiseFault .videoNotStarted s
    | some v => finish .ok { s with video := some (s.flushLayer L v) } := rfl
theorem exec_invalall : exec .invalall s = perform s fun s => finish .ok s.forceAllDirty := rfl
theorem exec_palload : exec .palload s = perform s fun s => finish .ok s.loadPalette := rfl
theorem exec_render : exec .render s = perform s fun s =>
    match s.video with
    | none => raiseFault .videoNotStarted s
    | some v => finish .ok (s.renderFrame v) := rfl
theorem exec_tick (q : Sequencer) : exec (.tick q) s = perform s fun s => finish .ok (s.tick q) := rfl
theorem exec_mbwr (v : Byte) : exec (.mbwr v) s = perform s fun s => finish .ok (s.writeCommand v) := rfl
theorem exec_mbrd : exec .mbrd s = perform s fun s => finish (.byte s.readCommand) s := rfl
theorem exec_mbclr : exec .mbclr s = perform s fun s => finish .ok s.clearPending := rfl
theorem exec_vidstart : exec .vidstart s = perform s fun s =>
    finish (if s.videoStop.drawAlloc.1 then .ok else .failed)
      (s.videoStop.drawAlloc.2.videoStart s.videoStop.drawAlloc.1) := rfl
theorem exec_vidstop : exec .vidstop s = perform s fun s => finish .ok s.videoStop := rfl
theorem exec_reset : exec .reset s = perform s fun s => finish .ok s.resetMachine := rfl

end

/-- Whatever the command, `exec` performs one body. -/
theorem exec_perform (i : Instr) : ∃ body, ∀ s, exec i s = perform s body := by
  cases i <;> exact ⟨_, fun _ => rfl⟩

section
variable {s : State} {cpu : Cpu} {sp : Space} {a : Addr} {r : AddressRange} {l : Loc} {v : Byte}
  {rh wh : BitVec 5} {arg : Nat}

/-- A read of an address whose range locates a store byte gives that byte (40_dispatch.md R410). -/
theorem State.memRead_store (h : findRange s.cfg cpu sp a = some r) (hk : ∀ rh wh arg, r.kind ≠ .reg rh wh arg)
    (hl : s.locate r a = some l) : s.memRead cpu sp a = finish (.byte (s.readLoc l)) s := by
  simp only [State.memRead, h, hl]

/-- A write to an address whose range locates a store byte writes that byte (40_dispatch.md R420, R421). -/
theorem State.memWrite_store (h : findRange s.cfg cpu sp a = some r) (hk : ∀ rh wh arg, r.kind ≠ .reg rh wh arg)
    (hl : s.locate r a = some l) : s.memWrite cpu sp a v = finish .ok (s.writeLoc l v) := by
  simp only [State.memWrite, h, hl]

/-- A read of a register range runs its read handler (40_dispatch.md R410). -/
theorem State.memRead_reg (h : findRange s.cfg cpu sp a = some r) (hk : r.kind = .reg rh wh arg) {hd : ReadHandler}
    (hh : readHandlerOf rh = some hd) :
    s.memRead cpu sp a = finish (.byte (s.readHandler hd arg).1) (s.readHandler hd arg).2 := by
  simp only [State.memRead, h, hk, hh]

/-- A write to a register range runs its write handler (40_dispatch.md R420). -/
theorem State.memWrite_reg (h : findRange s.cfg cpu sp a = some r) (hk : r.kind = .reg rh wh arg) {hd : WriteHandler}
    (hh : writeHandlerOf wh = some hd) : s.memWrite cpu sp a v = finish .ok (s.writeHandler hd arg v) := by
  simp only [State.memWrite, h, hk, hh]

/-- All that the router's read can do when it answers a next state (40_dispatch.md R410, R411). -/
theorem State.memRead_cases {t : State} (h : s.memRead cpu sp a = .next t) :
    (findRange s.cfg cpu sp a = none ∧ t = { s with result := some (.byte s.cfg.bus.openBusValue) }) ∨
    (∃ r l, findRange s.cfg cpu sp a = some r ∧ s.locate r a = some l ∧
      t = { s with result := some (.byte (s.readLoc l)) }) ∨
    (∃ r rh wh arg hd, findRange s.cfg cpu sp a = some r ∧ r.kind = .reg rh wh arg ∧ readHandlerOf rh = some hd ∧
      t = { (s.readHandler hd arg).2 with result := some (.byte (s.readHandler hd arg).1) }) := by
  unfold State.memRead at h
  split at h
  · next hf => exact .inl ⟨hf, finish_eq_next h⟩
  · next r hf =>
    split at h
    · next rh wh arg hk =>
      split at h
      · next hd hh => exact .inr (.inr ⟨r, rh, wh, arg, hd, hf, hk, hh, finish_eq_next h⟩)
      · cases h
    · split at h
      · next l hl => exact .inr (.inl ⟨r, l, hf, hl, finish_eq_next h⟩)
      · cases h

/-- All that the router's write can do when it answers a next state (40_dispatch.md R420 to R422). -/
theorem State.memWrite_cases {t : State} (h : s.memWrite cpu sp a v = .next t) :
    (findRange s.cfg cpu sp a = none ∧ t = { s with result := some .ok }) ∨
    (∃ r l, findRange s.cfg cpu sp a = some r ∧ s.locate r a = some l ∧
      t = { s.writeLoc l v with result := some .ok }) ∨
    (∃ r rh wh arg hd, findRange s.cfg cpu sp a = some r ∧ r.kind = .reg rh wh arg ∧ writeHandlerOf wh = some hd ∧
      t = { s.writeHandler hd arg v with result := some .ok }) := by
  unfold State.memWrite at h
  split at h
  · next hf => exact .inl ⟨hf, finish_eq_next h⟩
  · next r hf =>
    split at h
    · next rh wh arg hk =>
      split at h
      · next hd hh => exact .inr (.inr ⟨r, rh, wh, arg, hd, hf, hk, hh, finish_eq_next h⟩)
      · cases h
    · split at h
      · next l hl => exact .inr (.inl ⟨r, l, hf, hl, finish_eq_next h⟩)
      · cases h

end

end Sys2Proof.Machine
end

