-- ==== Sys2Proof/Laws/PerInstr.lean ====
section
/-! SUPPORT. One fact about every command as syntax, command by command: its operands fit in the 28 operand bits, so
the top field of its word is its opcode of 30_encoding.md R302. -/

namespace Sys2Proof.Laws

/-- The field `w[hi:lo]` of a word given by its value (00_scope.md R21). -/
theorem bits_ofNat {n : Nat} (h : n < 2 ^ 32) (hi lo : Nat) :
    bits (BitVec.ofNat 32 n) hi lo = n / 2 ^ lo % 2 ^ (hi + 1 - lo) := by
  unfold bits
  rw [BitVec.toNat_ofNat, Nat.mod_eq_of_lt h]

/-- Operands that fit in 28 bits leave the opcode in the top field of the word. -/
theorem opcode_of_fits {i : Instr} (ho : i.opcode < 16) (hf : i.operandBits < 2 ^ 28) :
    bits (encode i) 31 28 = i.opcode := by
  unfold encode
  rw [bits_ofNat (by omega)]
  omega

/-- The operands of command `i` fit in bits 27:0, and bits 31:28 of its word are its opcode (30_encoding.md R301,
R302). -/
def EncodeOpcode.Statement (i : Instr) : Prop := i.operandBits < 2 ^ 28 ∧ bits (encode i) 31 28 = i.opcode

/-- The statement follows from the bound on the operands. -/
theorem EncodeOpcode.of_fits {i : Instr} (ho : i.opcode < 16) (hf : i.operandBits < 2 ^ 28) :
    EncodeOpcode.Statement i := ⟨hf, opcode_of_fits ho hf⟩

theorem EncodeOpcode.busrd (cpu : Cpu) (space : Space) (addr : Addr) :
    EncodeOpcode.Statement (.busrd cpu space addr) := by
  refine EncodeOpcode.of_fits (by simp only [Instr.opcode]; omega) ?_
  have := addr.isLt
  cases cpu <;> cases space <;> simp only [Instr.operandBits, Cpu.bit, Space.bit] <;> omega

theorem EncodeOpcode.buswr (cpu : Cpu) (space : Space) (addr : Addr) (data : Byte) :
    EncodeOpcode.Statement (.buswr cpu space addr data) := by
  refine EncodeOpcode.of_fits (by simp only [Instr.opcode]; omega) ?_
  have := addr.isLt
  have := data.isLt
  cases cpu <;> cases space <;> simp only [Instr.operandBits, Cpu.bit, Space.bit] <;> omega

theorem EncodeOpcode.selbank (value : Byte) : EncodeOpcode.Statement (.selbank value) := by
  refine EncodeOpcode.of_fits (by simp only [Instr.opcode]; omega) ?_
  have := value.isLt
  simp only [Instr.operandBits]
  omega

theorem EncodeOpcode.decode (layout : BitVec 3) (tile : BitVec 12) (coloff : BitVec 11) (fx fy : Bool) :
    EncodeOpcode.Statement (.decode layout tile coloff fx fy) := by
  refine EncodeOpcode.of_fits (by simp only [Instr.opcode]; omega) ?_
  have := layout.isLt
  have := tile.isLt
  have := coloff.isLt
  cases fx <;> cases fy <;> simp only [Instr.operandBits, Bool.toNat_true, Bool.toNat_false] <;> omega

theorem EncodeOpcode.markdirty (layer : Layer) (cell : BitVec 16) :
    EncodeOpcode.Statement (.markdirty layer cell) := by
  refine EncodeOpcode.of_fits (by simp only [Instr.opcode]; omega) ?_
  have := cell.isLt
  cases layer <;> simp only [Instr.operandBits, Layer.bit] <;> omega

theorem EncodeOpcode.flushdirty (layer : Layer) : EncodeOpcode.Statement (.flushdirty layer) :=
  EncodeOpcode.of_fits (by simp only [Instr.opcode]; omega) (by cases layer <;> decide)

theorem EncodeOpcode.invalall : EncodeOpcode.Statement .invalall := EncodeOpcode.of_fits (by decide) (by decide)

theorem EncodeOpcode.palload : EncodeOpcode.Statement .palload := EncodeOpcode.of_fits (by decide) (by decide)

theorem EncodeOpcode.render : EncodeOpcode.Statement .render := EncodeOpcode.of_fits (by decide) (by decide)

theorem EncodeOpcode.tick (seq : Sequencer) : EncodeOpcode.Statement (.tick seq) :=
  EncodeOpcode.of_fits (by simp only [Instr.opcode]; omega) (by cases seq <;> decide)

theorem EncodeOpcode.mbwr (value : Byte) : EncodeOpcode.Statement (.mbwr value) := by
  refine EncodeOpcode.of_fits (by simp only [Instr.opcode]; omega) ?_
  have := value.isLt
  simp only [Instr.operandBits]
  omega

theorem EncodeOpcode.mbrd : EncodeOpcode.Statement .mbrd := EncodeOpcode.of_fits (by decide) (by decide)

theorem EncodeOpcode.mbclr : EncodeOpcode.Statement .mbclr := EncodeOpcode.of_fits (by decide) (by decide)

theorem EncodeOpcode.vidstart : EncodeOpcode.Statement .vidstart := EncodeOpcode.of_fits (by decide) (by decide)

theorem EncodeOpcode.vidstop : EncodeOpcode.Statement .vidstop := EncodeOpcode.of_fits (by decide) (by decide)

theorem EncodeOpcode.reset : EncodeOpcode.Statement .reset := EncodeOpcode.of_fits (by decide) (by decide)

end Sys2Proof.Laws
end

