-- ==== Sys2Proof/Laws/Plot.lean ====
section
/-! SUPPORT. Plotting: what a plotted block, the sprite stage and the text stage leave at each raster position. -/

namespace Sys2Proof.Machine

section
variable {α : Type}

theorem plot_sized (r : RasterCfg) (ink : Nat → α) (T : Surface α) (y x : Int) (v h w : Nat) :
    Surface.sized (plot r ink T y x v) h w = Surface.sized T h w := by
  unfold plot
  split
  · rw [Surface.sized_put]
  · rfl

/-- A plot touches its own visible position and no other (44_compositor.md R603). -/
theorem at?_plot (r : RasterCfg) (ink : Nat → α) (T : Surface α) (y x : Int) (v Y X : Nat) (hY : Y < r.visH)
    (hX : X < r.visW) : Surface.at? (plot r ink T y x v) Y X =
      if (Y : Int) = y ∧ (X : Int) = x then (Surface.at? T Y X).map (fun _ => ink v) else Surface.at? T Y X := by
  unfold plot
  split
  · next h =>
    rw [Surface.at?_put]
    by_cases e : (Y : Int) = y ∧ (X : Int) = x
    · obtain ⟨rfl, rfl⟩ := e
      simp
    · rw [if_neg e, if_neg]
      rintro ⟨e1, e2⟩
      exact e ⟨by omega, by omega⟩
  · next h =>
    rw [if_neg]
    rintro ⟨rfl, rfl⟩
    exact h ⟨by omega, by omega, by omega, by omega⟩

theorem plotBlock_sized (r : RasterCfg) (ink : Nat → α) (trans h w : Nat) (B : Surface PixelRec) (sy sx : Int)
    (T : Surface α) (H W : Nat) :
    Surface.sized (plotBlock r ink trans h w B sy sx T) H W = Surface.sized T H W := by
  unfold plotBlock
  refine forPixels_keeps (P := fun S => Surface.sized S H W = Surface.sized T H W) rfl fun y x S _ _ hS => ?_
  simp only
  split
  · rw [plot_sized, hS]
  · exact hS

/-- The pixel of block `B` with its corner at (`sy`, `sx`) that falls on raster row `Y`, column `X`, if the block
covers the position with a pen other than `trans`. -/
def blockPixel (trans h w : Nat) (B : Surface PixelRec) (sy sx : Int) (Y X : Nat) : Option Nat :=
  if 0 ≤ (Y : Int) - sy ∧ (Y : Int) - sy < h ∧ 0 ≤ (X : Int) - sx ∧ (X : Int) - sx < w then
    let p := Surface.getD B ((Y : Int) - sy).toNat ((X : Int) - sx).toNat default
    if p.pen ≠ trans then some p.index else none
  else none

/-- A target element with a plotted colour index over it, if there is one. -/
def inked (ink : Nat → α) (p : Option Nat) (old : α) : α := (p.map ink).getD old

@[simp] theorem inked_none (ink : Nat → α) (old : α) : inked ink none old = old := rfl
@[simp] theorem inked_some (ink : Nat → α) (i : Nat) (old : α) : inked ink (some i) old = ink i := rfl

/-- What plotting a block leaves at a visible position (44_compositor.md R621, R622, R603, R624). -/
theorem at?_plotBlock (r : RasterCfg) (ink : Nat → α) (trans h w : Nat) (B : Surface PixelRec) (sy sx : Int)
    (T : Surface α) (Y X : Nat) (hY : Y < r.visH) (hX : X < r.visW) :
    Surface.at? (plotBlock r ink trans h w B sy sx T) Y X =
      (Surface.at? T Y X).map (inked ink (blockPixel trans h w B sy sx Y X)) := by
  have id_map : ∀ o : Option α, o = o.map (inked ink none) := fun o => by cases o <;> rfl
  unfold blockPixel
  split
  · next hin =>
    obtain ⟨h1, h2, h3, h4⟩ := hin
    unfold plotBlock
    rw [forPixels_hit (obs := fun S => Surface.at? S Y X)
      (g := Option.map (inked ink (if (Surface.getD B ((Y : Int) - sy).toNat ((X : Int) - sx).toNat default).pen ≠ trans
        then some (Surface.getD B ((Y : Int) - sy).toNat ((X : Int) - sx).toNat default).index else none)))
      (y0 := ((Y : Int) - sy).toNat) (x0 := ((X : Int) - sx).toNat) (by omega) (by omega)]
    · intro S
      simp only
      split
      · rw [at?_plot _ _ _ _ _ _ _ _ hY hX, if_pos ⟨by omega, by omega⟩]
        rfl
      · exact id_map _
    · intro y x S _ _ hne
      simp only
      split
      · rw [at?_plot _ _ _ _ _ _ _ _ hY hX, if_neg]
        rintro ⟨e1, e2⟩
        exact hne ⟨by omega, by omega⟩
      · rfl
  · next hout =>
    unfold plotBlock
    rw [forPixels_miss (obs := fun S => Surface.at? S Y X)]
    · exact id_map _
    · intro y x S hy hx
      simp only
      split
      · rw [at?_plot _ _ _ _ _ _ _ _ hY hX, if_neg]
        rintro ⟨e1, e2⟩
        exact hout ⟨by omega, by omega, by omega, by omega⟩
      · rfl

/-- Plotting one colour index over another leaves the later one. -/
theorem inked_inked (ink : Nat → α) (p q : Option Nat) (old : α) :
    inked ink p (inked ink q old) = inked ink (p.or q) old := by
  cases p <;> rfl

end

section
variable {α : Type} (s : State)

theorem State.spriteTurn_sized (ink : Nat → α) (T : Surface α) (j H W : Nat) :
    Surface.sized (s.spriteTurn ink T j) H W = Surface.sized T H W := by
  unfold State.spriteTurn drawSprite
  simp only
  split
  · rw [plotBlock_sized]
  · rfl

/-- One turn of the sprite loop puts the entry's pixel over the target (44_compositor.md R620, R621). -/
theorem State.at?_spriteTurn (ink : Nat → α) (T : Surface α) (j Y X : Nat) (hY : Y < s.cfg.raster.visH)
    (hX : X < s.cfg.raster.visW) : Surface.at? (s.spriteTurn ink T j) Y X =
      (Surface.at? T Y X).map (inked ink (s.spritePixel j Y X)) := by
  have id_map : ∀ o : Option α, o = o.map (inked ink none) := fun o => by cases o <;> rfl
  unfold State.spriteTurn State.spritePixel drawSprite
  simp only
  split
  · next he =>
    rw [at?_plotBlock _ _ _ _ _ _ _ _ _ _ _ hY hX]
    congr 2
    unfold blockPixel
    simp only [he, true_and]
  · next he =>
    rw [if_neg fun h => he h.1]
    exact id_map _

/-- What the sprite stage's loop leaves at a visible position (44_compositor.md R620, R625). -/
theorem State.at?_spritePass (ink : Nat → α) (T : Surface α) (Y X : Nat) (hY : Y < s.cfg.raster.visH)
    (hX : X < s.cfg.raster.visW) : Surface.at? (s.spritePass ink T) Y X =
      (Surface.at? T Y X).map (inked ink (s.topSprite Y X s.cfg.sprite.spriteCount)) := by
  unfold State.spritePass
  induction s.cfg.sprite.spriteCount with
  | zero => cases h : Surface.at? T Y X <;> simp [State.topSprite, h]
  | succ n ih =>
    rw [List.range_succ, List.foldl_append, List.foldl_cons, List.foldl_nil, s.at?_spriteTurn ink _ n Y X hY hX, ih,
      Option.map_map]
    congr 1
    funext old
    simp only [Function.comp_apply, inked_inked, State.topSprite]

theorem State.spritePass_sized (ink : Nat → α) (T : Surface α) (H W : Nat) :
    Surface.sized (s.spritePass ink T) H W = Surface.sized T H W := by
  unfold State.spritePass
  induction s.cfg.sprite.spriteCount with
  | zero => rfl
  | succ n ih => rw [List.range_succ, List.foldl_append, List.foldl_cons, List.foldl_nil, s.spriteTurn_sized, ih]

theorem State.textPass_sized (ink : Nat → α) (cache : Surface PixelRec) (T : Surface α) (H W : Nat) :
    Surface.sized (s.textPass ink cache T) H W = Surface.sized T H W := by
  unfold State.textPass
  rw [plotBlock_sized]

/-- What the text loop leaves at a visible position (44_compositor.md R630, R631). -/
theorem State.at?_textPass (ink : Nat → α) (cache : Surface PixelRec) (T : Surface α) (Y X : Nat)
    (hY : Y < s.cfg.raster.visH) (hX : X < s.cfg.raster.visW) : Surface.at? (s.textPass ink cache T) Y X =
      (Surface.at? T Y X).map (inked ink
        (if Y < s.cfg.surfaceH .fg ∧ X < s.cfg.surfaceW .fg then
          if (Surface.getD cache Y X default).pen ≠ s.cfg.raster.transPenFg then
            some (Surface.getD cache Y X default).index else none
        else none)) := by
  unfold State.textPass
  rw [at?_plotBlock _ _ _ _ _ _ _ _ _ _ _ hY hX]
  congr 2
  unfold blockPixel
  simp

end

end Sys2Proof.Machine
end

