-- ==== Sys2Proof/Laws/State.lean ====
section
/-! SUPPORT. One lemma per field per named update of the state, so that no later proof unfolds an update. -/

namespace Sys2Proof.Machine

variable (s : State)

/-! ### `State.emit` -/

@[simp] theorem State.emit_cfg (e : Event) : (s.emit e).cfg = s.cfg := rfl
@[simp] theorem State.emit_bank (e : Event) : (s.emit e).bank = s.bank := rfl
@[simp] theorem State.emit_scrollXLo (e : Event) : (s.emit e).scrollXLo = s.scrollXLo := rfl
@[simp] theorem State.emit_scrollXHi (e : Event) : (s.emit e).scrollXHi = s.scrollXHi := rfl
@[simp] theorem State.emit_scrollYLo (e : Event) : (s.emit e).scrollYLo = s.scrollYLo := rfl
@[simp] theorem State.emit_scrollYHi (e : Event) : (s.emit e).scrollYHi = s.scrollYHi := rfl
@[simp] theorem State.emit_bgEnable (e : Event) : (s.emit e).bgEnable = s.bgEnable := rfl
@[simp] theorem State.emit_overdraw (e : Event) : (s.emit e).overdraw = s.overdraw := rfl
@[simp] theorem State.emit_seqEnableMain (e : Event) : (s.emit e).seqEnableMain = s.seqEnableMain := rfl
@[simp] theorem State.emit_seqEnableSound (e : Event) : (s.emit e).seqEnableSound = s.seqEnableSound := rfl
@[simp] theorem State.emit_mbLatch (e : Event) : (s.emit e).mbLatch = s.mbLatch := rfl
@[simp] theorem State.emit_mbPending (e : Event) : (s.emit e).mbPending = s.mbPending := rfl
@[simp] theorem State.emit_palette (e : Event) : (s.emit e).palette = s.palette := rfl
@[simp] theorem State.emit_colorIndexTable (e : Event) : (s.emit e).colorIndexTable = s.colorIndexTable := rfl
@[simp] theorem State.emit_paletteLoaded (e : Event) : (s.emit e).paletteLoaded = s.paletteLoaded := rfl
@[simp] theorem State.emit_ram (e : Event) : (s.emit e).ram = s.ram := rfl
@[simp] theorem State.emit_vram (e : Event) : (s.emit e).vram = s.vram := rfl
@[simp] theorem State.emit_sprram (e : Event) : (s.emit e).sprram = s.sprram := rfl
@[simp] theorem State.emit_video (e : Event) : (s.emit e).video = s.video := rfl
@[simp] theorem State.emit_events (e : Event) : (s.emit e).events = s.events ++ [e] := rfl
@[simp] theorem State.emit_fault (e : Event) : (s.emit e).fault = s.fault := rfl
@[simp] theorem State.emit_result (e : Event) : (s.emit e).result = s.result := rfl
@[simp] theorem State.emit_commands (e : Event) : (s.emit e).commands = s.commands := rfl
@[simp] theorem State.emit_inputs (e : Event) : (s.emit e).inputs = s.inputs := rfl
@[simp] theorem State.emit_allocs (e : Event) : (s.emit e).allocs = s.allocs := rfl
@[simp] theorem State.emit_draws (e : Event) : (s.emit e).draws = s.draws := rfl

/-! ### `State.clearPending` -/

@[simp] theorem State.clearPending_cfg : (s.clearPending).cfg = s.cfg := rfl
@[simp] theorem State.clearPending_bank : (s.clearPending).bank = s.bank := rfl
@[simp] theorem State.clearPending_scrollXLo : (s.clearPending).scrollXLo = s.scrollXLo := rfl
@[simp] theorem State.clearPending_scrollXHi : (s.clearPending).scrollXHi = s.scrollXHi := rfl
@[simp] theorem State.clearPending_scrollYLo : (s.clearPending).scrollYLo = s.scrollYLo := rfl
@[simp] theorem State.clearPending_scrollYHi : (s.clearPending).scrollYHi = s.scrollYHi := rfl
@[simp] theorem State.clearPending_bgEnable : (s.clearPending).bgEnable = s.bgEnable := rfl
@[simp] theorem State.clearPending_overdraw : (s.clearPending).overdraw = s.overdraw := rfl
@[simp] theorem State.clearPending_seqEnableMain : (s.clearPending).seqEnableMain = s.seqEnableMain := rfl
@[simp] theorem State.clearPending_seqEnableSound : (s.clearPending).seqEnableSound = s.seqEnableSound := rfl
@[simp] theorem State.clearPending_mbLatch : (s.clearPending).mbLatch = s.mbLatch := rfl
@[simp] theorem State.clearPending_mbPending : (s.clearPending).mbPending = false := rfl
@[simp] theorem State.clearPending_palette : (s.clearPending).palette = s.palette := rfl
@[simp] theorem State.clearPending_colorIndexTable : (s.clearPending).colorIndexTable = s.colorIndexTable := rfl
@[simp] theorem State.clearPending_paletteLoaded : (s.clearPending).paletteLoaded = s.paletteLoaded := rfl
@[simp] theorem State.clearPending_ram : (s.clearPending).ram = s.ram := rfl
@[simp] theorem State.clearPending_vram : (s.clearPending).vram = s.vram := rfl
@[simp] theorem State.clearPending_sprram : (s.clearPending).sprram = s.sprram := rfl
@[simp] theorem State.clearPending_video : (s.clearPending).video = s.video := rfl
@[simp] theorem State.clearPending_events : (s.clearPending).events = s.events := rfl
@[simp] theorem State.clearPending_fault : (s.clearPending).fault = s.fault := rfl
@[simp] theorem State.clearPending_result : (s.clearPending).result = s.result := rfl
@[simp] theorem State.clearPending_commands : (s.clearPending).commands = s.commands := rfl
@[simp] theorem State.clearPending_inputs : (s.clearPending).inputs = s.inputs := rfl
@[simp] theorem State.clearPending_allocs : (s.clearPending).allocs = s.allocs := rfl
@[simp] theorem State.clearPending_draws : (s.clearPending).draws = s.draws := rfl

/-! ### `State.markDirty` -/

@[simp] theorem State.markDirty_cfg (L : Layer) (i : Nat) : (s.markDirty L i).cfg = s.cfg := rfl
@[simp] theorem State.markDirty_bank (L : Layer) (i : Nat) : (s.markDirty L i).bank = s.bank := rfl
@[simp] theorem State.markDirty_scrollXLo (L : Layer) (i : Nat) : (s.markDirty L i).scrollXLo = s.scrollXLo := rfl
@[simp] theorem State.markDirty_scrollXHi (L : Layer) (i : Nat) : (s.markDirty L i).scrollXHi = s.scrollXHi := rfl
@[simp] theorem State.markDirty_scrollYLo (L : Layer) (i : Nat) : (s.markDirty L i).scrollYLo = s.scrollYLo := rfl
@[simp] theorem State.markDirty_scrollYHi (L : Layer) (i : Nat) : (s.markDirty L i).scrollYHi = s.scrollYHi := rfl
@[simp] theorem State.markDirty_bgEnable (L : Layer) (i : Nat) : (s.markDirty L i).bgEnable = s.bgEnable := rfl
@[simp] theorem State.markDirty_overdraw (L : Layer) (i : Nat) : (s.markDirty L i).overdraw = s.overdraw := rfl
@[simp] theorem State.markDirty_seqEnableMain (L : Layer) (i : Nat) : (s.markDirty L i).seqEnableMain = s.seqEnableMain := rfl
@[simp] theorem State.markDirty_seqEnableSound (L : Layer) (i : Nat) : (s.markDirty L i).seqEnableSound = s.seqEnableSound := rfl
@[simp] theorem State.markDirty_mbLatch (L : Layer) (i : Nat) : (s.markDirty L i).mbLatch = s.mbLatch := rfl
@[simp] theorem State.markDirty_mbPending (L : Layer) (i : Nat) : (s.markDirty L i).mbPending = s.mbPending := rfl
@[simp] theorem State.markDirty_palette (L : Layer) (i : Nat) : (s.markDirty L i).palette = s.palette := rfl
@[simp] theorem State.markDirty_colorIndexTable (L : Layer) (i : Nat) : (s.markDirty L i).colorIndexTable = s.colorIndexTable := rfl
@[simp] theorem State.markDirty_paletteLoaded (L : Layer) (i : Nat) : (s.markDirty L i).paletteLoaded = s.paletteLoaded := rfl
@[simp] theorem State.markDirty_ram (L : Layer) (i : Nat) : (s.markDirty L i).ram = s.ram := rfl
@[simp] theorem State.markDirty_vram (L : Layer) (i : Nat) : (s.markDirty L i).vram = s.vram := rfl
@[simp] theorem State.markDirty_sprram (L : Layer) (i : Nat) : (s.markDirty L i).sprram = s.sprram := rfl
@[simp] theorem State.markDirty_video (L : Layer) (i : Nat) : (s.markDirty L i).video = s.video.map fun v => v.setDirty L (i % s.cfg.cellCount L) true := rfl
@[simp] theorem State.markDirty_events (L : Layer) (i : Nat) : (s.markDirty L i).events = s.events := rfl
@[simp] theorem State.markDirty_fault (L : Layer) (i : Nat) : (s.markDirty L i).fault = s.fault := rfl
@[simp] theorem State.markDirty_result (L : Layer) (i : Nat) : (s.markDirty L i).result = s.result := rfl
@[simp] theorem State.markDirty_commands (L : Layer) (i : Nat) : (s.markDirty L i).commands = s.commands := rfl
@[simp] theorem State.markDirty_inputs (L : Layer) (i : Nat) : (s.markDirty L i).inputs = s.inputs := rfl
@[simp] theorem State.markDirty_allocs (L : Layer) (i : Nat) : (s.markDirty L i).allocs = s.allocs := rfl
@[simp] theorem State.markDirty_draws (L : Layer) (i : Nat) : (s.markDirty L i).draws = s.draws := rfl

/-! ### `State.forceAllDirty` -/

@[simp] theorem State.forceAllDirty_cfg : (s.forceAllDirty).cfg = s.cfg := rfl
@[simp] theorem State.forceAllDirty_bank : (s.forceAllDirty).bank = s.bank := rfl
@[simp] theorem State.forceAllDirty_scrollXLo : (s.forceAllDirty).scrollXLo = s.scrollXLo := rfl
@[simp] theorem State.forceAllDirty_scrollXHi : (s.forceAllDirty).scrollXHi = s.scrollXHi := rfl
@[simp] theorem State.forceAllDirty_scrollYLo : (s.forceAllDirty).scrollYLo = s.scrollYLo := rfl
@[simp] theorem State.forceAllDirty_scrollYHi : (s.forceAllDirty).scrollYHi = s.scrollYHi := rfl
@[simp] theorem State.forceAllDirty_bgEnable : (s.forceAllDirty).bgEnable = s.bgEnable := rfl
@[simp] theorem State.forceAllDirty_overdraw : (s.forceAllDirty).overdraw = s.overdraw := rfl
@[simp] theorem State.forceAllDirty_seqEnableMain : (s.forceAllDirty).seqEnableMain = s.seqEnableMain := rfl
@[simp] theorem State.forceAllDirty_seqEnableSound : (s.forceAllDirty).seqEnableSound = s.seqEnableSound := rfl
@[simp] theorem State.forceAllDirty_mbLatch : (s.forceAllDirty).mbLatch = s.mbLatch := rfl
@[simp] theorem State.forceAllDirty_mbPending : (s.forceAllDirty).mbPending = s.mbPending := rfl
@[simp] theorem State.forceAllDirty_palette : (s.forceAllDirty).palette = s.palette := rfl
@[simp] theorem State.forceAllDirty_colorIndexTable : (s.forceAllDirty).colorIndexTable = s.colorIndexTable := rfl
@[simp] theorem State.forceAllDirty_paletteLoaded : (s.forceAllDirty).paletteLoaded = s.paletteLoaded := rfl
@[simp] theorem State.forceAllDirty_ram : (s.forceAllDirty).ram = s.ram := rfl
@[simp] theorem State.forceAllDirty_vram : (s.forceAllDirty).vram = s.vram := rfl
@[simp] theorem State.forceAllDirty_sprram : (s.forceAllDirty).sprram = s.sprram := rfl
@[simp] theorem State.forceAllDirty_video : (s.forceAllDirty).video = s.video.map fun v => { v with dirty := allDirty s.cfg } := rfl
@[simp] theorem State.forceAllDirty_events : (s.forceAllDirty).events = s.events := rfl
@[simp] theorem State.forceAllDirty_fault : (s.forceAllDirty).fault = s.fault := rfl
@[simp] theorem State.forceAllDirty_result : (s.forceAllDirty).result = s.result := rfl
@[simp] theorem State.forceAllDirty_commands : (s.forceAllDirty).commands = s.commands := rfl
@[simp] theorem State.forceAllDirty_inputs : (s.forceAllDirty).inputs = s.inputs := rfl
@[simp] theorem State.forceAllDirty_allocs : (s.forceAllDirty).allocs = s.allocs := rfl
@[simp] theorem State.forceAllDirty_draws : (s.forceAllDirty).draws = s.draws := rfl

/-! ### `State.videoStop` -/

@[simp] theorem State.videoStop_cfg : (s.videoStop).cfg = s.cfg := rfl
@[simp] theorem State.videoStop_bank : (s.videoStop).bank = s.bank := rfl
@[simp] theorem State.videoStop_scrollXLo : (s.videoStop).scrollXLo = s.scrollXLo := rfl
@[simp] theorem State.videoStop_scrollXHi : (s.videoStop).scrollXHi = s.scrollXHi := rfl
@[simp] theorem State.videoStop_scrollYLo : (s.videoStop).scrollYLo = s.scrollYLo := rfl
@[simp] theorem State.videoStop_scrollYHi : (s.videoStop).scrollYHi = s.scrollYHi := rfl
@[simp] theorem State.videoStop_bgEnable : (s.videoStop).bgEnable = s.bgEnable := rfl
@[simp] theorem State.videoStop_overdraw : (s.videoStop).overdraw = s.overdraw := rfl
@[simp] theorem State.videoStop_seqEnableMain : (s.videoStop).seqEnableMain = s.seqEnableMain := rfl
@[simp] theorem State.videoStop_seqEnableSound : (s.videoStop).seqEnableSound = s.seqEnableSound := rfl
@[simp] theorem State.videoStop_mbLatch : (s.videoStop).mbLatch = s.mbLatch := rfl
@[simp] theorem State.videoStop_mbPending : (s.videoStop).mbPending = s.mbPending := rfl
@[simp] theorem State.videoStop_palette : (s.videoStop).palette = s.palette := rfl
@[simp] theorem State.videoStop_colorIndexTable : (s.videoStop).colorIndexTable = s.colorIndexTable := rfl
@[simp] theorem State.videoStop_paletteLoaded : (s.videoStop).paletteLoaded = s.paletteLoaded := rfl
@[simp] theorem State.videoStop_ram : (s.videoStop).ram = s.ram := rfl
@[simp] theorem State.videoStop_vram : (s.videoStop).vram = s.vram := rfl
@[simp] theorem State.videoStop_sprram : (s.videoStop).sprram = s.sprram := rfl
@[simp] theorem State.videoStop_video : (s.videoStop).video = none := rfl
@[simp] theorem State.videoStop_events : (s.videoStop).events = s.events := rfl
@[simp] theorem State.videoStop_fault : (s.videoStop).fault = s.fault := rfl
@[simp] theorem State.videoStop_result : (s.videoStop).result = s.result := rfl
@[simp] theorem State.videoStop_commands : (s.videoStop).commands = s.commands := rfl
@[simp] theorem State.videoStop_inputs : (s.videoStop).inputs = s.inputs := rfl
@[simp] theorem State.videoStop_allocs : (s.videoStop).allocs = s.allocs := rfl
@[simp] theorem State.videoStop_draws : (s.videoStop).draws = s.draws := rfl

/-! ### `State.videoStart` -/

@[simp] theorem State.videoStart_cfg (ok : Bool) : (s.videoStart ok).cfg = s.cfg := rfl
@[simp] theorem State.videoStart_bank (ok : Bool) : (s.videoStart ok).bank = s.bank := rfl
@[simp] theorem State.videoStart_scrollXLo (ok : Bool) : (s.videoStart ok).scrollXLo = s.scrollXLo := rfl
@[simp] theorem State.videoStart_scrollXHi (ok : Bool) : (s.videoStart ok).scrollXHi = s.scrollXHi := rfl
@[simp] theorem State.videoStart_scrollYLo (ok : Bool) : (s.videoStart ok).scrollYLo = s.scrollYLo := rfl
@[simp] theorem State.videoStart_scrollYHi (ok : Bool) : (s.videoStart ok).scrollYHi = s.scrollYHi := rfl
@[simp] theorem State.videoStart_bgEnable (ok : Bool) : (s.videoStart ok).bgEnable = s.bgEnable := rfl
@[simp] theorem State.videoStart_overdraw (ok : Bool) : (s.videoStart ok).overdraw = s.overdraw := rfl
@[simp] theorem State.videoStart_seqEnableMain (ok : Bool) : (s.videoStart ok).seqEnableMain = s.seqEnableMain := rfl
@[simp] theorem State.videoStart_seqEnableSound (ok : Bool) : (s.videoStart ok).seqEnableSound = s.seqEnableSound := rfl
@[simp] theorem State.videoStart_mbLatch (ok : Bool) : (s.videoStart ok).mbLatch = s.mbLatch := rfl
@[simp] theorem State.videoStart_mbPending (ok : Bool) : (s.videoStart ok).mbPending = s.mbPending := rfl
@[simp] theorem State.videoStart_palette (ok : Bool) : (s.videoStart ok).palette = s.palette := rfl
@[simp] theorem State.videoStart_colorIndexTable (ok : Bool) : (s.videoStart ok).colorIndexTable = s.colorIndexTable := rfl
@[simp] theorem State.videoStart_paletteLoaded (ok : Bool) : (s.videoStart ok).paletteLoaded = s.paletteLoaded := rfl
@[simp] theorem State.videoStart_ram (ok : Bool) : (s.videoStart ok).ram = s.ram := rfl
@[simp] theorem State.videoStart_vram (ok : Bool) : (s.videoStart ok).vram = s.vram := rfl
@[simp] theorem State.videoStart_sprram (ok : Bool) : (s.videoStart ok).sprram = s.sprram := rfl
@[simp] theorem State.videoStart_video (ok : Bool) : (s.videoStart ok).video = if ok then some (newVideo s.cfg s.draws) else none := rfl
@[simp] theorem State.videoStart_events (ok : Bool) : (s.videoStart ok).events = s.events := rfl
@[simp] theorem State.videoStart_fault (ok : Bool) : (s.videoStart ok).fault = s.fault := rfl
@[simp] theorem State.videoStart_result (ok : Bool) : (s.videoStart ok).result = s.result := rfl
@[simp] theorem State.videoStart_commands (ok : Bool) : (s.videoStart ok).commands = s.commands := rfl
@[simp] theorem State.videoStart_inputs (ok : Bool) : (s.videoStart ok).inputs = s.inputs := rfl
@[simp] theorem State.videoStart_allocs (ok : Bool) : (s.videoStart ok).allocs = s.allocs := rfl
@[simp] theorem State.videoStart_draws (ok : Bool) : (s.videoStart ok).draws = s.draws + 1 := rfl

/-! ### `State.loadPalette` -/

@[simp] theorem State.loadPalette_cfg : (s.loadPalette).cfg = s.cfg := rfl
@[simp] theorem State.loadPalette_bank : (s.loadPalette).bank = s.bank := rfl
@[simp] theorem State.loadPalette_scrollXLo : (s.loadPalette).scrollXLo = s.scrollXLo := rfl
@[simp] theorem State.loadPalette_scrollXHi : (s.loadPalette).scrollXHi = s.scrollXHi := rfl
@[simp] theorem State.loadPalette_scrollYLo : (s.loadPalette).scrollYLo = s.scrollYLo := rfl
@[simp] theorem State.loadPalette_scrollYHi : (s.loadPalette).scrollYHi = s.scrollYHi := rfl
@[simp] theorem State.loadPalette_bgEnable : (s.loadPalette).bgEnable = s.bgEnable := rfl
@[simp] theorem State.loadPalette_overdraw : (s.loadPalette).overdraw = s.overdraw := rfl
@[simp] theorem State.loadPalette_seqEnableMain : (s.loadPalette).seqEnableMain = s.seqEnableMain := rfl
@[simp] theorem State.loadPalette_seqEnableSound : (s.loadPalette).seqEnableSound = s.seqEnableSound := rfl
@[simp] theorem State.loadPalette_mbLatch : (s.loadPalette).mbLatch = s.mbLatch := rfl
@[simp] theorem State.loadPalette_mbPending : (s.loadPalette).mbPending = s.mbPending := rfl
@[simp] theorem State.loadPalette_palette : (s.loadPalette).palette = s.cfg.raster.derivedPalette := rfl
@[simp] theorem State.loadPalette_colorIndexTable : (s.loadPalette).colorIndexTable = s.cfg.raster.derivedIndexTable := rfl
@[simp] theorem State.loadPalette_paletteLoaded : (s.loadPalette).paletteLoaded = true := rfl
@[simp] theorem State.loadPalette_ram : (s.loadPalette).ram = s.ram := rfl
@[simp] theorem State.loadPalette_vram : (s.loadPalette).vram = s.vram := rfl
@[simp] theorem State.loadPalette_sprram : (s.loadPalette).sprram = s.sprram := rfl
@[simp] theorem State.loadPalette_video : (s.loadPalette).video = s.video.map fun v => { v with dirty := allDirty s.cfg } := rfl
@[simp] theorem State.loadPalette_events : (s.loadPalette).events = s.events := rfl
@[simp] theorem State.loadPalette_fault : (s.loadPalette).fault = s.fault := rfl
@[simp] theorem State.loadPalette_result : (s.loadPalette).result = s.result := rfl
@[simp] theorem State.loadPalette_commands : (s.loadPalette).commands = s.commands := rfl
@[simp] theorem State.loadPalette_inputs : (s.loadPalette).inputs = s.inputs := rfl
@[simp] theorem State.loadPalette_allocs : (s.loadPalette).allocs = s.allocs := rfl
@[simp] theorem State.loadPalette_draws : (s.loadPalette).draws = s.draws := rfl

/-! ### `State.renderFrame` -/

@[simp] theorem State.renderFrame_cfg (v : VideoState) : (s.renderFrame v).cfg = s.cfg := rfl
@[simp] theorem State.renderFrame_bank (v : VideoState) : (s.renderFrame v).bank = s.bank := rfl
@[simp] theorem State.renderFrame_scrollXLo (v : VideoState) : (s.renderFrame v).scrollXLo = s.scrollXLo := rfl
@[simp] theorem State.renderFrame_scrollXHi (v : VideoState) : (s.renderFrame v).scrollXHi = s.scrollXHi := rfl
@[simp] theorem State.renderFrame_scrollYLo (v : VideoState) : (s.renderFrame v).scrollYLo = s.scrollYLo := rfl
@[simp] theorem State.renderFrame_scrollYHi (v : VideoState) : (s.renderFrame v).scrollYHi = s.scrollYHi := rfl
@[simp] theorem State.renderFrame_bgEnable (v : VideoState) : (s.renderFrame v).bgEnable = s.bgEnable := rfl
@[simp] theorem State.renderFrame_overdraw (v : VideoState) : (s.renderFrame v).overdraw = s.overdraw := rfl
@[simp] theorem State.renderFrame_seqEnableMain (v : VideoState) : (s.renderFrame v).seqEnableMain = s.seqEnableMain := rfl
@[simp] theorem State.renderFrame_seqEnableSound (v : VideoState) : (s.renderFrame v).seqEnableSound = s.seqEnableSound := rfl
@[simp] theorem State.renderFrame_mbLatch (v : VideoState) : (s.renderFrame v).mbLatch = s.mbLatch := rfl
@[simp] theorem State.renderFrame_mbPending (v : VideoState) : (s.renderFrame v).mbPending = s.mbPending := rfl
@[simp] theorem State.renderFrame_palette (v : VideoState) : (s.renderFrame v).palette = s.palette := rfl
@[simp] theorem State.renderFrame_colorIndexTable (v : VideoState) : (s.renderFrame v).colorIndexTable = s.colorIndexTable := rfl
@[simp] theorem State.renderFrame_paletteLoaded (v : VideoState) : (s.renderFrame v).paletteLoaded = s.paletteLoaded := rfl
@[simp] theorem State.renderFrame_ram (v : VideoState) : (s.renderFrame v).ram = s.ram := rfl
@[simp] theorem State.renderFrame_vram (v : VideoState) : (s.renderFrame v).vram = s.vram := rfl
@[simp] theorem State.renderFrame_sprram (v : VideoState) : (s.renderFrame v).sprram = s.sprram := rfl
@[simp] theorem State.renderFrame_video (v : VideoState) : (s.renderFrame v).video = some (s.frame v) := rfl
@[simp] theorem State.renderFrame_events (v : VideoState) : (s.renderFrame v).events = s.events ++ [.present (s.presentSurface (s.frame v).out)] := rfl
@[simp] theorem State.renderFrame_fault (v : VideoState) : (s.renderFrame v).fault = s.fault := rfl
@[simp] theorem State.renderFrame_result (v : VideoState) : (s.renderFrame v).result = s.result := rfl
@[simp] theorem State.renderFrame_commands (v : VideoState) : (s.renderFrame v).commands = s.commands := rfl
@[simp] theorem State.renderFrame_inputs (v : VideoState) : (s.renderFrame v).inputs = s.inputs := rfl
@[simp] theorem State.renderFrame_allocs (v : VideoState) : (s.renderFrame v).allocs = s.allocs := rfl
@[simp] theorem State.renderFrame_draws (v : VideoState) : (s.renderFrame v).draws = s.draws + 1 := rfl

/-! ### `State.issueNext` -/

@[simp] theorem State.issueNext_cfg (w : Word) : (s.issueNext w).cfg = s.cfg := rfl
@[simp] theorem State.issueNext_bank (w : Word) : (s.issueNext w).bank = s.bank := rfl
@[simp] theorem State.issueNext_scrollXLo (w : Word) : (s.issueNext w).scrollXLo = s.scrollXLo := rfl
@[simp] theorem State.issueNext_scrollXHi (w : Word) : (s.issueNext w).scrollXHi = s.scrollXHi := rfl
@[simp] theorem State.issueNext_scrollYLo (w : Word) : (s.issueNext w).scrollYLo = s.scrollYLo := rfl
@[simp] theorem State.issueNext_scrollYHi (w : Word) : (s.issueNext w).scrollYHi = s.scrollYHi := rfl
@[simp] theorem State.issueNext_bgEnable (w : Word) : (s.issueNext w).bgEnable = s.bgEnable := rfl
@[simp] theorem State.issueNext_overdraw (w : Word) : (s.issueNext w).overdraw = s.overdraw := rfl
@[simp] theorem State.issueNext_seqEnableMain (w : Word) : (s.issueNext w).seqEnableMain = s.seqEnableMain := rfl
@[simp] theorem State.issueNext_seqEnableSound (w : Word) : (s.issueNext w).seqEnableSound = s.seqEnableSound := rfl
@[simp] theorem State.issueNext_mbLatch (w : Word) : (s.issueNext w).mbLatch = s.mbLatch := rfl
@[simp] theorem State.issueNext_mbPending (w : Word) : (s.issueNext w).mbPending = s.mbPending := rfl
@[simp] theorem State.issueNext_palette (w : Word) : (s.issueNext w).palette = s.palette := rfl
@[simp] theorem State.issueNext_colorIndexTable (w : Word) : (s.issueNext w).colorIndexTable = s.colorIndexTable := rfl
@[simp] theorem State.issueNext_paletteLoaded (w : Word) : (s.issueNext w).paletteLoaded = s.paletteLoaded := rfl
@[simp] theorem State.issueNext_ram (w : Word) : (s.issueNext w).ram = s.ram := rfl
@[simp] theorem State.issueNext_vram (w : Word) : (s.issueNext w).vram = s.vram := rfl
@[simp] theorem State.issueNext_sprram (w : Word) : (s.issueNext w).sprram = s.sprram := rfl
@[simp] theorem State.issueNext_video (w : Word) : (s.issueNext w).video = s.video := rfl
@[simp] theorem State.issueNext_events (w : Word) : (s.issueNext w).events = s.events := rfl
@[simp] theorem State.issueNext_fault (w : Word) : (s.issueNext w).fault = s.fault := rfl
@[simp] theorem State.issueNext_result (w : Word) : (s.issueNext w).result = s.result := rfl
@[simp] theorem State.issueNext_commands (w : Word) : (s.issueNext w).commands = w :: s.commands := rfl
@[simp] theorem State.issueNext_inputs (w : Word) : (s.issueNext w).inputs = s.inputs := rfl
@[simp] theorem State.issueNext_allocs (w : Word) : (s.issueNext w).allocs = s.allocs := rfl
@[simp] theorem State.issueNext_draws (w : Word) : (s.issueNext w).draws = s.draws := rfl

/-! ### `State.drawRegisters` -/

@[simp] theorem State.drawRegisters_cfg : (s.drawRegisters).cfg = s.cfg := rfl
@[simp] theorem State.drawRegisters_bank : (s.drawRegisters).bank = s.bank := rfl
@[simp] theorem State.drawRegisters_scrollXLo : (s.drawRegisters).scrollXLo = Config.freeByte (s.draws + 1) := rfl
@[simp] theorem State.drawRegisters_scrollXHi : (s.drawRegisters).scrollXHi = BitVec.ofBool (Config.freeBit (s.draws + 2)) := rfl
@[simp] theorem State.drawRegisters_scrollYLo : (s.drawRegisters).scrollYLo = Config.freeByte (s.draws + 3) := rfl
@[simp] theorem State.drawRegisters_scrollYHi : (s.drawRegisters).scrollYHi = BitVec.ofBool (Config.freeBit (s.draws + 4)) := rfl
@[simp] theorem State.drawRegisters_bgEnable : (s.drawRegisters).bgEnable = Config.freeBit (s.draws + 5) := rfl
@[simp] theorem State.drawRegisters_overdraw : (s.drawRegisters).overdraw = Config.freeBit (s.draws + 6) := rfl
@[simp] theorem State.drawRegisters_seqEnableMain : (s.drawRegisters).seqEnableMain = Config.freeBit (s.draws + 7) := rfl
@[simp] theorem State.drawRegisters_seqEnableSound : (s.drawRegisters).seqEnableSound = Config.freeBit (s.draws + 8) := rfl
@[simp] theorem State.drawRegisters_mbLatch : (s.drawRegisters).mbLatch = Config.freeByte s.draws := rfl
@[simp] theorem State.drawRegisters_mbPending : (s.drawRegisters).mbPending = s.mbPending := rfl
@[simp] theorem State.drawRegisters_palette : (s.drawRegisters).palette = s.palette := rfl
@[simp] theorem State.drawRegisters_colorIndexTable : (s.drawRegisters).colorIndexTable = s.colorIndexTable := rfl
@[simp] theorem State.drawRegisters_paletteLoaded : (s.drawRegisters).paletteLoaded = s.paletteLoaded := rfl
@[simp] theorem State.drawRegisters_ram : (s.drawRegisters).ram = s.ram := rfl
@[simp] theorem State.drawRegisters_vram : (s.drawRegisters).vram = s.vram := rfl
@[simp] theorem State.drawRegisters_sprram : (s.drawRegisters).sprram = s.sprram := rfl
@[simp] theorem State.drawRegisters_video : (s.drawRegisters).video = s.video := rfl
@[simp] theorem State.drawRegisters_events : (s.drawRegisters).events = s.events := rfl
@[simp] theorem State.drawRegisters_fault : (s.drawRegisters).fault = s.fault := rfl
@[simp] theorem State.drawRegisters_result : (s.drawRegisters).result = s.result := rfl
@[simp] theorem State.drawRegisters_commands : (s.drawRegisters).commands = s.commands := rfl
@[simp] theorem State.drawRegisters_inputs : (s.drawRegisters).inputs = s.inputs := rfl
@[simp] theorem State.drawRegisters_allocs : (s.drawRegisters).allocs = s.allocs := rfl
@[simp] theorem State.drawRegisters_draws : (s.drawRegisters).draws = s.draws + 9 := rfl

/-! ### Operations that branch -/

@[simp] theorem State.writeCommand_cfg (v : Byte) : (s.writeCommand v).cfg = s.cfg := by unfold State.writeCommand; split <;> rfl
@[simp] theorem State.writeCommand_bank (v : Byte) : (s.writeCommand v).bank = s.bank := by unfold State.writeCommand; split <;> rfl
@[simp] theorem State.writeCommand_scrollXLo (v : Byte) : (s.writeCommand v).scrollXLo = s.scrollXLo := by unfold State.writeCommand; split <;> rfl
@[simp] theorem State.writeCommand_scrollXHi (v : Byte) : (s.writeCommand v).scrollXHi = s.scrollXHi := by unfold State.writeCommand; split <;> rfl
@[simp] theorem State.writeCommand_scrollYLo (v : Byte) : (s.writeCommand v).scrollYLo = s.scrollYLo := by unfold State.writeCommand; split <;> rfl
@[simp] theorem State.writeCommand_scrollYHi (v : Byte) : (s.writeCommand v).scrollYHi = s.scrollYHi := by unfold State.writeCommand; split <;> rfl
@[simp] theorem State.writeCommand_bgEnable (v : Byte) : (s.writeCommand v).bgEnable = s.bgEnable := by unfold State.writeCommand; split <;> rfl
@[simp] theorem State.writeCommand_overdraw (v : Byte) : (s.writeCommand v).overdraw = s.overdraw := by unfold State.writeCommand; split <;> rfl
@[simp] theorem State.writeCommand_seqEnableMain (v : Byte) : (s.writeCommand v).seqEnableMain = s.seqEnableMain := by unfold State.writeCommand; split <;> rfl
@[simp] theorem State.writeCommand_seqEnableSound (v : Byte) : (s.writeCommand v).seqEnableSound = s.seqEnableSound := by unfold State.writeCommand; split <;> rfl
@[simp] theorem State.writeCommand_mbLatch (v : Byte) : (s.writeCommand v).mbLatch = v := by unfold State.writeCommand; split <;> rfl
@[simp] theorem State.writeCommand_mbPending (v : Byte) : (s.writeCommand v).mbPending = true := by unfold State.writeCommand; split <;> rfl
@[simp] theorem State.writeCommand_palette (v : Byte) : (s.writeCommand v).palette = s.palette := by unfold State.writeCommand; split <;> rfl
@[simp] theorem State.writeCommand_colorIndexTable (v : Byte) : (s.writeCommand v).colorIndexTable = s.colorIndexTable := by unfold State.writeCommand; split <;> rfl
@[simp] theorem State.writeCommand_paletteLoaded (v : Byte) : (s.writeCommand v).paletteLoaded = s.paletteLoaded := by unfold State.writeCommand; split <;> rfl
@[simp] theorem State.writeCommand_ram (v : Byte) : (s.writeCommand v).ram = s.ram := by unfold State.writeCommand; split <;> rfl
@[simp] theorem State.writeCommand_vram (v : Byte) : (s.writeCommand v).vram = s.vram := by unfold State.writeCommand; split <;> rfl
@[simp] theorem State.writeCommand_sprram (v : Byte) : (s.writeCommand v).sprram = s.sprram := by unfold State.writeCommand; split <;> rfl
@[simp] theorem State.writeCommand_video (v : Byte) : (s.writeCommand v).video = s.video := by unfold State.writeCommand; split <;> rfl
@[simp] theorem State.writeCommand_events (v : Byte) : (s.writeCommand v).events = s.events ++ (if s.cfg.ints.mailboxRaisesInt then [.intReq .sound s.cfg.ints.mailboxIntKind] else []) := by unfold State.writeCommand; split <;> simp_all
@[simp] theorem State.writeCommand_fault (v : Byte) : (s.writeCommand v).fault = s.fault := by unfold State.writeCommand; split <;> rfl
@[simp] theorem State.writeCommand_result (v : Byte) : (s.writeCommand v).result = s.result := by unfold State.writeCommand; split <;> rfl
@[simp] theorem State.writeCommand_commands (v : Byte) : (s.writeCommand v).commands = s.commands := by unfold State.writeCommand; split <;> rfl
@[simp] theorem State.writeCommand_inputs (v : Byte) : (s.writeCommand v).inputs = s.inputs := by unfold State.writeCommand; split <;> rfl
@[simp] theorem State.writeCommand_allocs (v : Byte) : (s.writeCommand v).allocs = s.allocs := by unfold State.writeCommand; split <;> rfl
@[simp] theorem State.writeCommand_draws (v : Byte) : (s.writeCommand v).draws = s.draws := by unfold State.writeCommand; split <;> rfl
@[simp] theorem State.tick_cfg (q : Sequencer) : (s.tick q).cfg = s.cfg := by unfold State.tick; split <;> rfl
@[simp] theorem State.tick_bank (q : Sequencer) : (s.tick q).bank = s.bank := by unfold State.tick; split <;> rfl
@[simp] theorem State.tick_scrollXLo (q : Sequencer) : (s.tick q).scrollXLo = s.scrollXLo := by unfold State.tick; split <;> rfl
@[simp] theorem State.tick_scrollXHi (q : Sequencer) : (s.tick q).scrollXHi = s.scrollXHi := by unfold State.tick; split <;> rfl
@[simp] theorem State.tick_scrollYLo (q : Sequencer) : (s.tick q).scrollYLo = s.scrollYLo := by unfold State.tick; split <;> rfl
@[simp] theorem State.tick_scrollYHi (q : Sequencer) : (s.tick q).scrollYHi = s.scrollYHi := by unfold State.tick; split <;> rfl
@[simp] theorem State.tick_bgEnable (q : Sequencer) : (s.tick q).bgEnable = s.bgEnable := by unfold State.tick; split <;> rfl
@[simp] theorem State.tick_overdraw (q : Sequencer) : (s.tick q).overdraw = s.overdraw := by unfold State.tick; split <;> rfl
@[simp] theorem State.tick_seqEnableMain (q : Sequencer) : (s.tick q).seqEnableMain = s.seqEnableMain := by unfold State.tick; split <;> rfl
@[simp] theorem State.tick_seqEnableSound (q : Sequencer) : (s.tick q).seqEnableSound = s.seqEnableSound := by unfold State.tick; split <;> rfl
@[simp] theorem State.tick_mbLatch (q : Sequencer) : (s.tick q).mbLatch = s.mbLatch := by unfold State.tick; split <;> rfl
@[simp] theorem State.tick_mbPending (q : Sequencer) : (s.tick q).mbPending = s.mbPending := by unfold State.tick; split <;> rfl
@[simp] theorem State.tick_palette (q : Sequencer) : (s.tick q).palette = s.palette := by unfold State.tick; split <;> rfl
@[simp] theorem State.tick_colorIndexTable (q : Sequencer) : (s.tick q).colorIndexTable = s.colorIndexTable := by unfold State.tick; split <;> rfl
@[simp] theorem State.tick_paletteLoaded (q : Sequencer) : (s.tick q).paletteLoaded = s.paletteLoaded := by unfold State.tick; split <;> rfl
@[simp] theorem State.tick_ram (q : Sequencer) : (s.tick q).ram = s.ram := by unfold State.tick; split <;> rfl
@[simp] theorem State.tick_vram (q : Sequencer) : (s.tick q).vram = s.vram := by unfold State.tick; split <;> rfl
@[simp] theorem State.tick_sprram (q : Sequencer) : (s.tick q).sprram = s.sprram := by unfold State.tick; split <;> rfl
@[simp] theorem State.tick_video (q : Sequencer) : (s.tick q).video = s.video := by unfold State.tick; split <;> rfl
@[simp] theorem State.tick_events (q : Sequencer) : (s.tick q).events = s.events ++ (if s.seqEnable q then [.intReq (Sequencer.target q) (seqKind s.cfg q)] else []) := by unfold State.tick State.seqState; cases h : s.seqEnable q <;> simp [SeqState.onTick]
@[simp] theorem State.tick_fault (q : Sequencer) : (s.tick q).fault = s.fault := by unfold State.tick; split <;> rfl
@[simp] theorem State.tick_result (q : Sequencer) : (s.tick q).result = s.result := by unfold State.tick; split <;> rfl
@[simp] theorem State.tick_commands (q : Sequencer) : (s.tick q).commands = s.commands := by unfold State.tick; split <;> rfl
@[simp] theorem State.tick_inputs (q : Sequencer) : (s.tick q).inputs = s.inputs := by unfold State.tick; split <;> rfl
@[simp] theorem State.tick_allocs (q : Sequencer) : (s.tick q).allocs = s.allocs := by unfold State.tick; split <;> rfl
@[simp] theorem State.tick_draws (q : Sequencer) : (s.tick q).draws = s.draws := by unfold State.tick; split <;> rfl

/-- What a bank select leaves: the latch, and at most the ProgramBank event with its draw (41_bank.md R450, R451). -/
theorem State.selectBank_eq (value : Byte) :
    s.selectBank value = { s with
      bank := bankTarget s.cfg value
      events := (s.selectBank value).events
      draws := (s.selectBank value).draws } := by
  unfold State.selectBank State.equalSelect
  simp only
  split
  · rfl
  · split <;> rfl
@[simp] theorem State.selectBank_cfg (value : Byte) : (s.selectBank value).cfg = s.cfg := by rw [State.selectBank_eq]
@[simp] theorem State.selectBank_bank (value : Byte) : (s.selectBank value).bank = bankTarget s.cfg value := by rw [State.selectBank_eq]
@[simp] theorem State.selectBank_scrollXLo (value : Byte) : (s.selectBank value).scrollXLo = s.scrollXLo := by rw [State.selectBank_eq]
@[simp] theorem State.selectBank_scrollXHi (value : Byte) : (s.selectBank value).scrollXHi = s.scrollXHi := by rw [State.selectBank_eq]
@[simp] theorem State.selectBank_scrollYLo (value : Byte) : (s.selectBank value).scrollYLo = s.scrollYLo := by rw [State.selectBank_eq]
@[simp] theorem State.selectBank_scrollYHi (value : Byte) : (s.selectBank value).scrollYHi = s.scrollYHi := by rw [State.selectBank_eq]
@[simp] theorem State.selectBank_bgEnable (value : Byte) : (s.selectBank value).bgEnable = s.bgEnable := by rw [State.selectBank_eq]
@[simp] theorem State.selectBank_overdraw (value : Byte) : (s.selectBank value).overdraw = s.overdraw := by rw [State.selectBank_eq]
@[simp] theorem State.selectBank_seqEnableMain (value : Byte) : (s.selectBank value).seqEnableMain = s.seqEnableMain := by rw [State.selectBank_eq]
@[simp] theorem State.selectBank_seqEnableSound (value : Byte) : (s.selectBank value).seqEnableSound = s.seqEnableSound := by rw [State.selectBank_eq]
@[simp] theorem State.selectBank_mbLatch (value : Byte) : (s.selectBank value).mbLatch = s.mbLatch := by rw [State.selectBank_eq]
@[simp] theorem State.selectBank_mbPending (value : Byte) : (s.selectBank value).mbPending = s.mbPending := by rw [State.selectBank_eq]
@[simp] theorem State.selectBank_palette (value : Byte) : (s.selectBank value).palette = s.palette := by rw [State.selectBank_eq]
@[simp] theorem State.selectBank_colorIndexTable (value : Byte) : (s.selectBank value).colorIndexTable = s.colorIndexTable := by rw [State.selectBank_eq]
@[simp] theorem State.selectBank_paletteLoaded (value : Byte) : (s.selectBank value).paletteLoaded = s.paletteLoaded := by rw [State.selectBank_eq]
@[simp] theorem State.selectBank_ram (value : Byte) : (s.selectBank value).ram = s.ram := by rw [State.selectBank_eq]
@[simp] theorem State.selectBank_vram (value : Byte) : (s.selectBank value).vram = s.vram := by rw [State.selectBank_eq]
@[simp] theorem State.selectBank_sprram (value : Byte) : (s.selectBank value).sprram = s.sprram := by rw [State.selectBank_eq]
@[simp] theorem State.selectBank_video (value : Byte) : (s.selectBank value).video = s.video := by rw [State.selectBank_eq]
@[simp] theorem State.selectBank_fault (value : Byte) : (s.selectBank value).fault = s.fault := by rw [State.selectBank_eq]
@[simp] theorem State.selectBank_result (value : Byte) : (s.selectBank value).result = s.result := by rw [State.selectBank_eq]
@[simp] theorem State.selectBank_commands (value : Byte) : (s.selectBank value).commands = s.commands := by rw [State.selectBank_eq]
@[simp] theorem State.selectBank_inputs (value : Byte) : (s.selectBank value).inputs = s.inputs := by rw [State.selectBank_eq]
@[simp] theorem State.selectBank_allocs (value : Byte) : (s.selectBank value).allocs = s.allocs := by rw [State.selectBank_eq]

end Sys2Proof.Machine
end

