-- ==== Sys2Proof/Machine/Assembler.lean ====
section
/-! DEFINITION. The assembler syntax and the pseudo-instructions (30_encoding.md R310, R311): one line of text to
the commands it stands for. -/

namespace Sys2Proof.Machine

/-! ### Pseudo-instructions (30_encoding.md R311) -/

/-- The pseudo-instructions. -/
inductive Pseudo where
  | frame
  | sndcmd (value : Byte)
  | sndack
  | flushall
  | boot
deriving DecidableEq, Repr

/-- The expansion of a pseudo-instruction (30_encoding.md R311). -/
def Pseudo.expand : Pseudo → List Instr
  | .frame => [.render, .tick .main]
  | .sndcmd v => [.mbwr v]
  | .sndack => [.mbclr]
  | .flushall => [.flushdirty .bg, .flushdirty .fg]
  | .boot => [.vidstart, .palload, .reset]

/-! ### Lines of text -/

/-- A space or a tab. -/
def isBlank (c : Char) : Bool := c == ' ' || c == '\t'

/-- Text without the blanks at its ends. -/
def trimBlanks (l : List Char) : List Char := (((l.dropWhile isBlank).reverse).dropWhile isBlank).reverse

/-- The parts of a text between commas. -/
def splitCommas (l : List Char) : List (List Char) :=
  l.foldr (fun c parts =>
    if c == ',' then [] :: parts else
      match parts with
      | [] => [[c]]
      | p :: ps => (c :: p) :: ps) [[]]

/-- The value of a digit in base `base`. -/
def digitValue (base : Nat) (c : Char) : Option Nat :=
  let n := c.toNat
  let v := if 48 ≤ n && n ≤ 57 then n - 48 else if 97 ≤ n && n ≤ 102 then n - 87
    else if 65 ≤ n && n ≤ 70 then n - 55 else base
  if v < base then some v else none

/-- The value of digits in base `base`, after `acc`. -/
def digitsValue (base : Nat) : List Char → Nat → Option Nat
  | [], acc => some acc
  | c :: rest, acc =>
    match digitValue base c with
    | some d => digitsValue base rest (acc * base + d)
    | none => none

/-- A number in decimal, or in hexadecimal after `0x` (30_encoding.md R310). -/
def numberOf : List Char → Option Nat
  | [] => none
  | ['0', 'x'] => none
  | '0' :: 'x' :: rest => digitsValue 16 rest 0
  | l => digitsValue 10 l 0

/-- A number that fits a field of `n` bits (30_encoding.md R304). -/
def fieldOf (n : Nat) (l : List Char) : Option (BitVec n) :=
  match numberOf l with
  | some v => if v < 2 ^ n then some (BitVec.ofNat n v) else none
  | none => none

/-- `<cpu>.<space>` (30_encoding.md R310). -/
def busOf (l : List Char) : Option (Cpu × Space) :=
  match String.ofList l with
  | "main.mem" => some (.main, .mem)
  | "main.io" => some (.main, .io)
  | "sound.mem" => some (.sound, .mem)
  | "sound.io" => some (.sound, .io)
  | _ => none

/-- `<layer>` (30_encoding.md R310). -/
def layerNameOf (l : List Char) : Option Layer :=
  match String.ofList l with
  | "bg" => some .bg
  | "fg" => some .fg
  | _ => none

/-- `<seq>` (30_encoding.md R310). -/
def sequencerNameOf (l : List Char) : Option Sequencer :=
  match String.ofList l with
  | "0" => some .main
  | "1" => some .sound
  | _ => none

/-- The optional `fx` and `fy` of DECODE (30_encoding.md R310). -/
def flipsOf (ops : List (List Char)) : Option (Bool × Bool) :=
  match ops.map String.ofList with
  | [] => some (false, false)
  | ["fx"] => some (true, false)
  | ["fy"] => some (false, true)
  | ["fx", "fy"] => some (true, true)
  | _ => none

/-- The commands of a mnemonic with operands (30_encoding.md R310), pseudo-instructions included (R311). -/
def lineCommands (mnemonic : String) (ops : List (List Char)) : Option (List Instr) :=
  match mnemonic, ops with
  | "busrd", [b, a] => do
    let (c, s) ← busOf b
    let addr ← fieldOf 16 a
    some [.busrd c s addr]
  | "buswr", [b, a, d] => do
    let (c, s) ← busOf b
    let addr ← fieldOf 16 a
    let data ← fieldOf 8 d
    some [.buswr c s addr data]
  | "selbank", [v] => (fieldOf 8 v).map fun v => [.selbank v]
  | "decode", k :: t :: c :: flips => do
    let layout ← fieldOf 3 k
    let tile ← fieldOf 12 t
    let coloff ← fieldOf 11 c
    let (fx, fy) ← flipsOf flips
    some [.decode layout tile coloff fx fy]
  | "markdirty", [L, i] => do
    let layer ← layerNameOf L
    let cell ← fieldOf 16 i
    some [.markdirty layer cell]
  | "flushdirty", [L] => (layerNameOf L).map fun L => [.flushdirty L]
  | "invalall", [] => some [.invalall]
  | "palload", [] => some [.palload]
  | "render", [] => some [.render]
  | "tick", [q] => (sequencerNameOf q).map fun q => [.tick q]
  | "mbwr", [v] => (fieldOf 8 v).map fun v => [.mbwr v]
  | "mbrd", [] => some [.mbrd]
  | "mbclr", [] => some [.mbclr]
  | "vidstart", [] => some [.vidstart]
  | "vidstop", [] => some [.vidstop]
  | "reset", [] => some [.reset]
  | "frame", [] => some (Pseudo.expand .frame)
  | "sndcmd", [v] => (fieldOf 8 v).map fun v => Pseudo.expand (.sndcmd v)
  | "sndack", [] => some (Pseudo.expand .sndack)
  | "flushall", [] => some (Pseudo.expand .flushall)
  | "boot", [] => some (Pseudo.expand .boot)
  | _, _ => none

/-- The commands one line stands for: none for an empty line or a comment, and no reading for a line that is not in
the syntax (30_encoding.md R310). DESIGN CHOICE, safe (notes/assumptions/25.md). -/
def assembleLine (line : String) : Option (List Instr) :=
  let text := trimBlanks (line.toList.takeWhile (· != ';'))
  let mnemonic := text.takeWhile (fun c => !isBlank c)
  let rest := trimBlanks (text.dropWhile (fun c => !isBlank c))
  if text.isEmpty then some []
  else lineCommands (String.ofList mnemonic) (if rest.isEmpty then [] else (splitCommas rest).map trimBlanks)

end Sys2Proof.Machine
end

