-- ==== Sys2Proof/Tests/Slice0.lean ====
section
/-! SUPPORT. Tests: words and values written out from the spec's encoding tables and test vectors (95_test_vectors.md,
cited by its vector names), and for every statement with hypotheses a concrete state and operands that meet them. -/

namespace Sys2Proof.Tests

open Sys2Proof Sys2Proof.Machine

/-! ### Decoding: words of 95_test_vectors.md section 3.1 -/

theorem test_decode_busrd_main_mem : decodeWord 0x10004000 = some (.busrd .main .mem 0x4000) := by decide
theorem test_decode_busrd_sound_io : decodeWord 0x1C00FFFF = some (.busrd .sound .io 0xFFFF) := by decide
theorem test_decode_buswr : decodeWord 0x2C420010 = some (.buswr .sound .io 0x0010 0x42) := by decide
theorem test_decode_buswr_all_bits : decodeWord 0x2CFFFFFF = some (.buswr .sound .io 0xFFFF 0xFF) := by decide
theorem test_decode_selbank : decodeWord 0x300000FF = some (.selbank 255) := by decide
theorem test_decode_decode : decodeWord 0x44810012 = some (.decode 1 0x012 0x010 true false) := by decide
theorem test_decode_decode_wide : decodeWord 0x407FFFFF = some (.decode 0 0xFFF 0x7FF false false) := by decide
theorem test_decode_decode_fy : decodeWord 0x48000000 = some (.decode 0 0 0 false true) := by decide
theorem test_decode_markdirty : decodeWord 0x54000005 = some (.markdirty .fg 5) := by decide
theorem test_decode_markdirty_wide : decodeWord 0x5000FFFF = some (.markdirty .bg 0xFFFF) := by decide
theorem test_decode_flushdirty : decodeWord 0x64000000 = some (.flushdirty .fg) := by decide
theorem test_decode_invalall : decodeWord 0x70000000 = some .invalall := by decide
theorem test_decode_palload : decodeWord 0x80000000 = some .palload := by decide
theorem test_decode_render : decodeWord 0x90000000 = some .render := by decide
theorem test_decode_tick_main : decodeWord 0xA0000000 = some (.tick .main) := by decide
theorem test_decode_tick_sound : decodeWord 0xA8000000 = some (.tick .sound) := by decide
theorem test_decode_mbwr : decodeWord 0xB0000042 = some (.mbwr 0x42) := by decide
theorem test_decode_mbrd : decodeWord 0xC0000000 = some .mbrd := by decide
theorem test_decode_mbclr : decodeWord 0xD0000000 = some .mbclr := by decide
theorem test_decode_vidstart : decodeWord 0xE0000001 = some .vidstart := by decide
theorem test_decode_vidstop : decodeWord 0xE0000000 = some .vidstop := by decide
theorem test_decode_reset : decodeWord 0xF0000000 = some .reset := by decide

/-! Words that are illegal on the fixture (V-E30 to V-E47). -/

theorem test_illegal_bus :
    [0x00000000, 0x0FFFFFFF, 0x11000000, 0x22000000, 0x10010000].all (fun w => (legalCommand Config.fx w).isNone) = true := by decide
theorem test_illegal_value :
    [0x30000100, 0xB8000000].all (fun w => (legalCommand Config.fx w).isNone) = true := by decide
theorem test_illegal_layout :
    [0x41000000, 0x43800000].all (fun w => (legalCommand Config.fx w).isNone) = true := by decide
theorem test_illegal_layer :
    [0x58000000, 0x5C000000, 0x54010000, 0x60000001, 0x68000000].all (fun w => (legalCommand Config.fx w).isNone) = true := by decide
theorem test_illegal_no_operand :
    [0x70000001, 0x80000001, 0x90000001, 0xC0000001, 0xD0000001, 0xF0000001].all (fun w => (legalCommand Config.fx w).isNone) = true := by decide
theorem test_illegal_rest :
    [0xF8000000, 0xA0000001, 0xA4000000, 0xE0000002, 0xE8000001].all (fun w => (legalCommand Config.fx w).isNone) = true := by decide

theorem test_table_word : decodeTableWord 32 0x44810012 = some (.decode 1 0x012 0x010 true false) := by decide

/-! ### WellFormed: its one check, with a term it refuses -/

theorem test_wellFormed_layout : (Instr.decode 1 0 0 false false).wellFormed Config.fx = true := by decide
theorem test_wellFormed_refuses_layout : (Instr.decode 2 0 0 false false).wellFormed Config.fx = false := by decide

/-! ### The assembler: lines of 30_encoding.md R310, R311 -/

theorem test_assemble_decode : (assembleLine "decode 1, 0x012, 0x010, fx").map (·.map encode) = some [0x44810012] := by
  decide
theorem test_assemble_buswr : (assembleLine "buswr sound.io, 0x0010, 0x42").map (·.map encode) = some [0x2C420010] := by
  decide
theorem test_assemble_boot :
    (assembleLine "boot").map (·.map encode) = some [0xE0000001, 0x80000000, 0xF0000000] := by decide

/-! ### States -/

/-- The fixture passes the construction checks (95_test_vectors.md section 2). -/
theorem fx_valid : Config.fx.valid = true := by decide

/-- Buffers of a started video with every flag set. -/
def newBuffers : VideoState where
  dirty := allDirty Config.fx
  cache :=
    { bg := List.replicate 4 (List.replicate 4 { pen := 0, index := 0 })
      fg := List.replicate 2 (List.replicate 4 { pen := 0, index := 0 }) }
  out := List.replicate 2 (List.replicate 4 0)
  acc := List.replicate 2 (List.replicate 4 none)

/-- Scene SC of 95_test_vectors.md section 2.4, every cell dirty. -/
def scene : State :=
  { State.reset with
    bgEnable := true
    palette := Config.fx.raster.derivedPalette
    colorIndexTable := Config.fx.raster.derivedIndexTable
    paletteLoaded := true
    vram :=
      { bg := { code := [(1, 1), (2, 2), (3, 3)], attr := [(1, 1), (2, 0x42), (3, 0x80)] }
        fg := { code := [(0, 3)], attr := [] } }
    sprram := [(0, 2), (2, 0x11), (4, 2), (6, 0x41), (7, 3)]
    video := some newBuffers }

/-- A row of pixel records from pens and indices. -/
def row (l : List (Nat × Nat)) : List PixelRec := l.map fun p => { pen := p.1, index := p.2 }

/-- The buffers of scene SC after its cells are decoded (95_test_vectors.md section 2.4). -/
def cleanBuffers : VideoState :=
  { newBuffers with
    dirty := { bg := List.replicate 4 false, fg := List.replicate 2 false }
    cache :=
      { bg := [row [(2, 2), (0, 0), (1, 5), (1, 5)], row [(2, 2), (3, 3), (1, 5), (1, 5)],
          row [(2, 10), (2, 10), (0, 0), (0, 0)], row [(2, 10), (2, 10), (0, 0), (0, 0)]]
        fg := [row [(0, 32), (0, 32), (2, 34), (0, 32)], row [(0, 32), (0, 32), (2, 34), (3, 35)]] } }

/-- Scene SC with every cell clean. -/
def cleanScene : State := { scene with video := some cleanBuffers }

/-- Scene SC in overdraw mode. -/
def overScene : State := { scene with overdraw := true }

/-- The fixture with another policy for a select of the mapped bank. -/
def selecting (e : EqualBankEvent) : Config := { Config.fx with bank := { Config.fx.bank with equalBankEvent := e } }

/-- `f` of the state a command leaves, if it leaves one. -/
def after {α : Type} (i : Instr) (s : State) (f : State → α) : Option α :=
  match exec i s with
  | .next t => some (f t)
  | _ => none

/-- The state a command leaves; the state before it, if it stops. -/
def next (i : Instr) (s : State) : State := ((after i s id)).getD s

/-- A command that leaves a state leaves `next i s`. -/
theorem exec_next {i : Instr} {s : State} (h : (after i s fun _ => true) = some true) : exec i s = .next (next i s) := by
  unfold next after at *
  split at h
  · next t ht => rw [ht]; rfl
  · cases h

theorem ready {s : State} (hc : s.cfg = Config.fx) (hf : s.fault = none) : s.Ready :=
  ⟨by rw [hc]; exact fx_valid, hf⟩

/-! ### Commands: one step each, values of 95_test_vectors.md sections 3.2 to 3.10 -/

/-- V-B1 and V-B6. -/
theorem test_busrd_rom : after (.busrd .main .mem 0x0000) State.reset (·.result) = some (some (.byte 0x3E)) := by decide
theorem test_busrd_unmapped : after (.busrd .main .mem 0x7000) State.reset (·.result) = some (some (.byte 0xFF)) := by
  decide

/-- V-B12: the attribute plane of cell 1, and its flag. -/
theorem test_buswr_vram : after (.buswr .main .mem 0x9005 0x02) cleanScene
    (fun t => (t.vramByte .bg 1 1, t.video.map (·.dirty.bg))) = some (0x02, some [false, true, false, false]) := by
  decide
/-- V-B20: bit 0 of 0xFE. -/
theorem test_buswr_scroll_hi :
    after (.buswr .main .mem 0xA002 0xFE) { State.reset with scrollXHi := 1 } (·.scrollXHi) = some 0 := by decide

/-- V-K1 and V-K3. -/
theorem test_selbank : after (.selbank 2) State.reset (fun t => (t.bank, t.events)) = some (2, [.programBank 2]) := by
  decide
theorem test_selbank_reduced : after (.selbank 6) State.reset (·.bank) = some 2 := by decide

/-- V-D2 and V-D5. -/
theorem test_decode_flipped : after (.decode 0 0 0 true false) State.reset (·.result) =
    some (some (.block [row [(0, 0), (2, 2)], row [(3, 3), (2, 2)]])) := by decide
theorem test_decode_offset : after (.decode 0 0 20 false false) State.reset (·.result) =
    some (some (.block [row [(2, 22), (0, 20)], row [(2, 22), (3, 23)]])) := by decide

/-- V-Y2: the cell is reduced modulo 4. -/
theorem test_markdirty : after (.markdirty .bg 5) cleanScene (fun t => t.video.map (·.dirty.bg)) =
    some (some [false, true, false, false]) := by decide

/-- Section 2.4: the decoded BG surface, with V-Y4's clean flags. -/
theorem test_flushdirty : after (.flushdirty .bg) scene (fun t => t.video.map fun v => (v.cache.bg, v.dirty.bg)) =
    some (some (cleanBuffers.cache.bg, [false, false, false, false])) := by decide

/-- V-Y6. -/
theorem test_invalall : after .invalall cleanScene (fun t => t.video.map (·.dirty)) =
    some (some { bg := [true, true, true, true], fg := [true, true] }) := by decide

/-- V-Y7. -/
theorem test_palload : after .palload { cleanScene with paletteLoaded := false }
    (fun t => (t.paletteLoaded, t.video.map (·.dirty.fg))) = some (true, some [true, true]) := by decide

/-- V-C1 and V-C12 (its background). -/
theorem test_render : after .render scene (fun t => t.video.map (·.out)) =
    some (some [[22, 0, 34, 5], [22, 23, 34, 35]]) := by decide
theorem test_render_blank : after .render { scene with bgEnable := false } (fun t => t.video.map (·.out)) =
    some (some [[22, 0, 34, 0], [22, 23, 34, 35]]) := by decide

/-- V-S1 and V-S4. -/
theorem test_tick_main : after (.tick .main) { State.reset with seqEnableMain := true } (·.events) =
    some [.intReq .main .nmi] := by decide
theorem test_tick_lost : after (.tick .sound) State.reset (·.events) = some [] := by decide

/-- V-M1, V-M2 and V-M3. -/
theorem test_mbwr : after (.mbwr 0x42) State.reset (fun t => (t.mbLatch, t.mbPending, t.events)) =
    some (0x42, true, [.intReq .sound .irq]) := by decide
theorem test_mbrd : after .mbrd { State.reset with mbLatch := 0x42, mbPending := true }
    (fun t => (t.result, t.mbPending)) = some (some (.byte 0x42), true) := by decide
theorem test_mbclr : after .mbclr { State.reset with mbLatch := 0x42, mbPending := true }
    (fun t => (t.mbLatch, t.mbPending)) = some (0x42, false) := by decide

/-- V-C21, V-C23 and V-C24. -/
theorem test_vidstart : after .vidstart { State.reset with allocs := [true] }
    (fun t => (t.result, t.video.map (·.acc))) =
      some (some .ok, some [[none, none, none, none], [none, none, none, none]]) := by decide
theorem test_vidstart_failed : after .vidstart { scene with allocs := [false] }
    (fun t => (t.result, t.videoOn, t.fault)) = some (some .failed, false, none) := by decide
theorem test_vidstop : after .vidstop scene (fun t => (t.result, t.videoOn)) = some (some .ok, false) := by decide

/-- V-Z1. -/
theorem test_reset : after .reset { cleanScene with bank := 3, mbPending := true }
    (fun t => (t.bank, t.mbPending, t.video.map (·.dirty.fg), t.events)) =
      some (0, false, some [true, true], [.programBank 0]) := by decide

/-- V-F4 and V-F3. -/
theorem test_render_stopped : after .render State.reset (fun t => (t.result, t.fault)) =
    some (some .fault, some .videoNotStarted) := by decide
theorem test_reset_halted : after .reset { State.reset with fault := some .illegalCommand }
    (fun t => (t.result, t.fault, t.events)) = some (some .halted, some .illegalCommand, []) := by decide

/-- V-C20. -/
theorem test_sprite_origin :
    spriteOrigin { Config.fx.sprite with xOrigin := -8, yOrigin := 247 }
      { y := 100, x := 50, tile := 0, color := 0, flipX := false, flipY := false, bank := 0, enable := true } =
      (147, 42) := by decide

/-! ### Witnesses: for each statement of Certificates/Slice0/Obligations.lean with hypotheses, named after it, concrete
states and operands that meet them, clause by clause -/

theorem reset_inv : State.reset.Inv := State.inv_of_check fx_valid (by decide)
theorem scene_inv : scene.Inv := State.inv_of_check fx_valid (by decide)
theorem cleanScene_inv : cleanScene.Inv := State.inv_of_check fx_valid (by decide)
theorem overScene_inv : overScene.Inv := State.inv_of_check fx_valid (by decide)
theorem scene_cache : scene.CacheInv := State.cacheInv_of_check (by decide)
theorem cleanScene_cache : cleanScene.CacheInv := State.cacheInv_of_check (by decide)
theorem overScene_cache : overScene.CacheInv := State.cacheInv_of_check (by decide)

/-- The machine with one command word issued. -/
def issued (w : Word) : State := { State.reset with commands := [w] }

/-- The state a step leaves; the state before it, if it stops. -/
def stepped (s : State) : State :=
  match step s with
  | .next t => t
  | _ => s

/-- A range of the fixture that is a register range of one address. -/
def regAt (a : Addr) (rh wh : BitVec 5) : AddressRange := Fixture.reg a rh wh 0

/-- The banked ROM, the work RAM, the BG, FG and sprite ranges of the fixture's main CPU. -/
def bankedRange : AddressRange := { start := 0x4000, stop := 0x5FFF, kind := .rom 1 0 true }
def ramRange : AddressRange := { start := 0x8000, stop := 0x87FF, kind := .ram 0 0 false }
def bgRange : AddressRange := { start := 0x9000, stop := 0x9007, kind := .vid (.tilemap .bg) 0 }
def fgRange : AddressRange := { start := 0x9010, stop := 0x9011, kind := .vid (.tilemap .fg) 0 }
def spriteRange : AddressRange := { start := 0x9020, stop := 0x9027, kind := .vid .sprite 0 }
def soundRamRange : AddressRange := { start := 0x1000, stop := 0x13FF, kind := .ram 1 0 false }

/-- `find` of the fixture gives range `r`. -/
def finds (cpu : Cpu) (sp : Space) (a : Addr) (r : AddressRange) : Prop := findRange Config.fx cpu sp a = some r

theorem finds_banked : finds .main .mem 0x5FFF bankedRange := by unfold finds; decide
theorem finds_rom : finds .main .mem 0x0000 { start := 0x0000, stop := 0x3FFF, kind := .rom 0 0 false } := by
  unfold finds; decide
theorem finds_ram : finds .main .mem 0x87FF ramRange := by unfold finds; decide
theorem finds_bg : finds .main .mem 0x9007 bgRange := by unfold finds; decide
theorem finds_fg : finds .main .mem 0x9010 fgRange := by unfold finds; decide
theorem finds_sprite : finds .main .mem 0x9027 spriteRange := by unfold finds; decide
theorem finds_sound_ram : finds .sound .mem 0x1000 soundRamRange := by unfold finds; decide

theorem witness_LegalWordsDecodeUniquely :
    legalCommand Config.fx 0x44810012 = some (.decode 1 0x012 0x010 true false) := by decide

/-- One word for each format and reason of R305, each at the first value that makes it illegal. -/
theorem witness_IllegalWordsRaiseIllegalCommand :
    (issued 0x10010000).Ready ∧ (issued 0x10010000).commands = [0x10010000] ∧ IllegalWord Config.fx 0x10010000 ∧
    IllegalWord Config.fx 0x00000000 ∧ IllegalWord Config.fx 0x11000000 ∧ IllegalWord Config.fx 0x21000000 ∧
    IllegalWord Config.fx 0x30000100 ∧ IllegalWord Config.fx 0x41000000 ∧ IllegalWord Config.fx 0x58000000 ∧
    IllegalWord Config.fx 0x54010000 ∧ IllegalWord Config.fx 0x68000000 ∧ IllegalWord Config.fx 0x60010000 ∧
    IllegalWord Config.fx 0x60000001 ∧ IllegalWord Config.fx 0x70000001 ∧ IllegalWord Config.fx 0xA0000001 ∧
    IllegalWord Config.fx 0xB0000100 ∧ IllegalWord Config.fx 0xE0000002 := by
  refine ⟨ready rfl rfl, rfl, .inr (by decide), trivial, .inl (by decide), ?_, ?_, ?_, .inl (by decide),
    .inr (by decide), .inl (by decide), .inr (.inl (by decide)), .inr (.inr (by decide)), ?_, ?_, ?_, ?_⟩
  · show bits 0x21000000 25 24 ≠ 0
    decide
  · show bits 0x30000100 27 8 ≠ 0
    decide
  · show Config.fx.layouts.length ≤ bits 0x41000000 25 23
    decide
  · show bits 0x70000001 27 0 ≠ 0
    decide
  · show bits 0xA0000001 26 0 ≠ 0
    decide
  · show bits 0xB0000100 27 8 ≠ 0
    decide
  · show bits 0xE0000002 27 1 ≠ 0
    decide

theorem witness_StepRunsDecodedCommand :
    (issued 0x90000000).commands = [0x90000000] ∧ legalCommand (issued 0x90000000).cfg 0x90000000 = some .render := by
  decide

theorem witness_FaultIsPreciseAndHalts :
    (issued 0x90000000).Ready ∧ step (issued 0x90000000) = .next (stepped (issued 0x90000000)) ∧
    (stepped (issued 0x90000000)).fault = some .videoNotStarted ∧
    ({ issued 0x90000000 with fault := some .illegalCommand }).cfg.valid = true ∧
    ({ issued 0x90000000 with fault := some .illegalCommand }).commands ≠ [] :=
  ⟨ready rfl rfl, rfl, rfl, fx_valid, by decide⟩

/-- A configuration with no layout is rejected (R854). -/
theorem witness_RejectedConfigurationRunsNothing :
    ({ State.reset with cfg := { Config.fx with layouts := [] } }).cfg.valid = false := by decide

theorem witness_StoppedVideoFaultsOnlyRenderAndFlush :
    State.reset.Ready ∧ State.reset.video = none ∧ (Instr.markdirty .fg 1).wellFormed State.reset.cfg = true ∧
    exec (.markdirty .fg 1) State.reset = .next (next (.markdirty .fg 1) State.reset) :=
  ⟨ready rfl rfl, rfl, rfl, exec_next (by decide)⟩

theorem witness_WellFormedMachineNeverStops : State.reset.Inv ∧ scene.Inv := ⟨reset_inv, scene_inv⟩

theorem witness_StepKeepsWellFormed :
    ({ scene with commands := [0x90000000] }).Inv ∧
    step { scene with commands := [0x90000000] } = .next (stepped { scene with commands := [0x90000000] }) :=
  ⟨State.inv_of_check fx_valid (by decide), rfl⟩

theorem witness_PowerOnIsWellFormed : Config.fx.valid = true := fx_valid

theorem witness_StepKeepsCacheInvariant :
    ({ cleanScene with commands := [0x20429006] }).Inv ∧ ({ cleanScene with commands := [0x20429006] }).CacheInv ∧
    step { cleanScene with commands := [0x20429006] } = .next (stepped { cleanScene with commands := [0x20429006] }) :=
  ⟨State.inv_of_check fx_valid (by decide), State.cacheInv_of_check (by decide), rfl⟩

/-- A command that writes a video element, one that writes none, and one that sets the fault mark. -/
theorem witness_ElementsWrittenOnlyByTheirCommands :
    exec (.markdirty .bg 5) cleanScene = .next (next (.markdirty .bg 5) cleanScene) ∧
    cleanScene.video = some cleanBuffers ∧ (next (.markdirty .bg 5) cleanScene).video.isSome = true ∧
    exec .mbclr cleanScene = .next (next .mbclr cleanScene) ∧ (next .mbclr cleanScene).video.isSome = true ∧
    exec .render State.reset = .next (next .render State.reset) ∧ (next .render State.reset).fault ≠ none :=
  ⟨exec_next (by decide), rfl, by decide, exec_next (by decide), by decide, exec_next (by decide), by decide⟩

/-- A start that succeeds, one that fails, and a stop. -/
theorem witness_VideoLifetime :
    let yes : State := { State.reset with allocs := [true] }
    let no : State := { scene with allocs := [false] }
    yes.Ready ∧ exec .vidstart yes = .next (next .vidstart yes) ∧
    no.Ready ∧ exec .vidstart no = .next (next .vidstart no) ∧
    scene.Ready ∧ exec .vidstop scene = .next (next .vidstop scene) :=
  ⟨ready rfl rfl, exec_next (by decide), ready rfl rfl, exec_next (by decide), ready rfl rfl, exec_next (by decide)⟩

theorem witness_EventsOnlyAppended : step (issued 0x30000002) = .next (stepped (issued 0x30000002)) := rfl

/-- An enabled TICK, MBWR, and BUSWR through W_SOUND_COMMAND. -/
theorem witness_InterruptRequestSources :
    exec (.tick .main) { State.reset with seqEnableMain := true } =
      .next (next (.tick .main) { State.reset with seqEnableMain := true }) ∧
    exec (.mbwr 0x42) State.reset = .next (next (.mbwr 0x42) State.reset) ∧
    exec (.buswr .main .mem 0xA008 0x42) State.reset = .next (next (.buswr .main .mem 0xA008 0x42) State.reset) :=
  ⟨exec_next (by decide), exec_next (by decide), exec_next (by decide)⟩

theorem witness_UnmappedAccessHarmless :
    State.reset.Ready ∧ findRange State.reset.cfg .main .mem 0x6000 = none := ⟨ready rfl rfl, by decide⟩

theorem witness_RomWriteIgnored :
    scene.Inv ∧ scene.fault = none ∧ finds .main .mem 0x5FFF bankedRange ∧ bankedRange.kind = .rom 1 0 true :=
  ⟨scene_inv, rfl, finds_banked, rfl⟩

theorem witness_FindIsTheOnlyCoveringRange :
    Config.fx.valid = true ∧ bankedRange ∈ Config.fx.busMap .main .mem ∧
    bankedRange.start.toNat ≤ (0x4000 : Addr).toNat ∧ (0x4000 : Addr).toNat ≤ bankedRange.stop.toNat :=
  ⟨fx_valid, by decide, by decide, by decide⟩

/-- The last address of the banked range, at the last bank. -/
theorem witness_RouterOffsetInsideStore :
    Config.fx.valid = true ∧ bankedRange ∈ Config.fx.busMap .main .mem ∧
    (∀ rh wh arg, bankedRange.kind ≠ .reg rh wh arg) ∧ bankedRange.start.toNat ≤ (0x5FFF : Addr).toNat ∧
    (0x5FFF : Addr).toNat ≤ bankedRange.stop.toNat ∧ 3 < Config.fx.bank.bankCount :=
  ⟨fx_valid, by decide, (by intro _ _ _ h; cases h), by decide, by decide, by decide⟩

/-- Each kind of store: the ROM banked and not, the RAM, a tilemap and the sprite table, at the ends of the ranges. -/
theorem witness_BusReadOfStoreByte :
    scene.Inv ∧ scene.fault = none ∧ finds .main .mem 0x5FFF bankedRange ∧
    finds .main .mem 0x0000 { start := 0x0000, stop := 0x3FFF, kind := .rom 0 0 false } ∧
    finds .main .mem 0x87FF ramRange ∧ finds .main .mem 0x9007 bgRange ∧ finds .main .mem 0x9027 spriteRange :=
  ⟨scene_inv, rfl, finds_banked, finds_rom, finds_ram, finds_bg, finds_sprite⟩

/-- Each read handler; the input port with a value from the host and without. -/
theorem witness_BusReadOfRegister :
    State.reset.Ready ∧ finds .main .mem 0xA000 (regAt 0xA000 0x10 0x01) ∧
    finds .sound .mem 0x2000 (regAt 0x2000 0x11 0x0B) ∧ finds .main .io 0x0000 (regAt 0x0000 0x12 0x00) ∧
    ({ State.reset with inputs := [0x5A] }).Ready ∧ ({ State.reset with inputs := [0x5A] }).inputs = [0x5A] ∧
    State.reset.inputs = [] := by
  refine ⟨ready rfl rfl, ?_, ?_, ?_, ready rfl rfl, rfl, rfl⟩ <;> unfold finds <;> decide

theorem witness_BusWriteRamByte :
    scene.Inv ∧ scene.fault = none ∧ finds .main .mem 0x87FF ramRange ∧ ramRange.kind = .ram 0 0 false :=
  ⟨scene_inv, rfl, finds_ram, rfl⟩

/-- With the video started, and with it stopped. -/
theorem witness_BusWriteTilemapByte :
    scene.Inv ∧ scene.fault = none ∧ finds .main .mem 0x9007 bgRange ∧ bgRange.kind = .vid (.tilemap .bg) 0 ∧
    scene.video = some newBuffers ∧ State.reset.Inv ∧ State.reset.fault = none ∧ State.reset.video = none :=
  ⟨scene_inv, rfl, finds_bg, rfl, rfl, reset_inv, rfl, rfl⟩

theorem witness_BusWriteSpriteByte :
    scene.Inv ∧ scene.fault = none ∧ finds .main .mem 0x9027 spriteRange ∧ spriteRange.kind = .vid .sprite 0 :=
  ⟨scene_inv, rfl, finds_sprite, rfl⟩

/-- Each register of the statement has its range on the fixture. -/
theorem witness_BusWriteScrollAndEnableRegisters :
    State.reset.Ready ∧ finds .main .mem 0xA001 (regAt 0xA001 0x10 0x02) ∧
    finds .main .mem 0xA002 (regAt 0xA002 0x10 0x03) ∧ finds .main .mem 0xA003 (regAt 0xA003 0x10 0x04) ∧
    finds .main .mem 0xA004 (regAt 0xA004 0x10 0x05) ∧ finds .main .mem 0xA005 (regAt 0xA005 0x10 0x06) ∧
    finds .main .mem 0xA007 (regAt 0xA007 0x10 0x08) ∧ finds .sound .mem 0x2001 (regAt 0x2001 0x10 0x09) := by
  refine ⟨ready rfl rfl, ?_, ?_, ?_, ?_, ?_, ?_, ?_⟩ <;> unfold finds <;> decide

/-- A 0-to-0 write, a 1-to-0 write with the video stopped, and a 1-to-0 write with it started. -/
theorem witness_BusWriteOverdraw :
    finds .main .mem 0xA006 (regAt 0xA006 0x10 0x07) ∧ State.reset.Ready ∧ State.reset.overdraw = false ∧
    ({ State.reset with overdraw := true }).Ready ∧ ({ State.reset with overdraw := true }).video = none ∧
    overScene.Ready ∧ overScene.overdraw = true ∧ (0x00 : Byte).getLsbD 0 = false ∧
    overScene.video = some newBuffers := by
  refine ⟨?_, ready rfl rfl, rfl, ready rfl rfl, rfl, ready rfl rfl, rfl, rfl, rfl⟩
  unfold finds
  decide

theorem witness_RegisterFormsOfCommands :
    State.reset.Ready ∧ finds .main .mem 0xA000 (regAt 0xA000 0x10 0x01) ∧
    finds .main .mem 0xA008 (regAt 0xA008 0x10 0x0A) := by
  refine ⟨ready rfl rfl, ?_, ?_⟩ <;> unfold finds <;> decide

theorem witness_BusWriteSoundChipAndNop :
    State.reset.Ready ∧ finds .main .io 0x0000 (regAt 0x0000 0x12 0x00) ∧
    finds .sound .io 0x0010 (regAt 0x0010 0x10 0x0C) ∧ finds .sound .io 0x0011 (regAt 0x0011 0x10 0x0D) := by
  refine ⟨ready rfl rfl, ?_, ?_, ?_⟩ <;> unfold finds <;> decide

theorem witness_StoredByteReadsBack :
    scene.Inv ∧ scene.fault = none ∧ finds .main .mem 0x87FF ramRange ∧
    exec (.buswr .main .mem 0x87FF 0x5A) scene = .next (next (.buswr .main .mem 0x87FF 0x5A) scene) ∧
    finds .main .mem 0x9010 fgRange ∧
    exec (.buswr .main .mem 0x9010 0x01) scene = .next (next (.buswr .main .mem 0x9010 0x01) scene) :=
  ⟨scene_inv, rfl, finds_ram, exec_next (by decide), finds_fg, exec_next (by decide)⟩

/-- The main CPU writes and the sound CPU reads its RAM; the sound CPU writes and the main CPU reads video RAM. -/
theorem witness_OtherCpuStoreUntouched :
    scene.Inv ∧ scene.fault = none ∧ Cpu.main ≠ Cpu.sound ∧
    exec (.buswr .main .mem 0x8000 0x5A) scene = .next (next (.buswr .main .mem 0x8000 0x5A) scene) ∧
    finds .sound .mem 0x1000 soundRamRange ∧
    exec (.buswr .sound .mem 0x13FF 0x5A) scene = .next (next (.buswr .sound .mem 0x13FF 0x5A) scene) ∧
    finds .main .mem 0x9007 bgRange :=
  ⟨scene_inv, rfl, by decide, exec_next (by decide), finds_sound_ram, exec_next (by decide), finds_bg⟩

/-- The last bank and the first value outside the banks; a change, and the mapped bank under each policy. -/
theorem witness_SelbankEffect :
    State.reset.Ready ∧ (3 : Byte).toNat < State.reset.cfg.bank.bankCount ∧
    State.reset.cfg.bank.bankCount ≤ (4 : Byte).toNat ∧ bankTarget State.reset.cfg 3 ≠ State.reset.bank ∧
    bankTarget State.reset.cfg 4 = State.reset.bank ∧ State.reset.cfg.bank.equalBankEvent = .either ∧
    ({ State.reset with cfg := selecting .emit }).cfg.valid = true ∧ bankTarget (selecting .emit) 0 = 0 ∧
    ({ State.reset with cfg := selecting .skip }).cfg.valid = true ∧ bankTarget (selecting .skip) 0 = 0 :=
  ⟨ready rfl rfl, by decide, by decide, by decide, by decide, rfl, by decide, by decide, by decide, by decide⟩

theorem witness_BankTargetInRange : Config.fx.valid = true ∧ Config.fx.bank.bankOutOfRange = .mask :=
  ⟨fx_valid, rfl⟩

theorem witness_SelbankIdempotent :
    (3 : Byte).toNat < State.reset.cfg.bank.bankCount ∧ State.reset.fault = none ∧
    exec (.selbank 3) State.reset = .next (next (.selbank 3) State.reset) ∧
    exec (.selbank 3) (next (.selbank 3) State.reset) = .next (next (.selbank 3) (next (.selbank 3) State.reset)) :=
  ⟨by decide, rfl, exec_next (by decide), exec_next (by decide)⟩

/-- The last layout of the fixture, and the first number it does not have. -/
theorem witness_DecodeCommandReturnsBlock :
    State.reset.Ready ∧ (1 : BitVec 3).toNat < State.reset.cfg.layouts.length ∧
    State.reset.cfg.layouts.length ≤ (2 : BitVec 3).toNat := ⟨ready rfl rfl, by decide, by decide⟩

theorem witness_PenFitsLayout :
    Surface.at? (decodeTile Config.fx 0 0 20 false false) 1 1 = some { pen := 3, index := 23 } := by decide

theorem witness_FlipReversesPixels : 1 < (Config.fx.layout 0).tileHeight ∧ 1 < (Config.fx.layout 0).tileWidth := by decide

/-- With the video stopped, and with it started. -/
theorem witness_MarkdirtyEffect :
    bits (0x54000005 : Word) 31 28 = 5 ∧ bits (0x58000000 : Word) 31 28 = 5 ∧
    State.reset.Inv ∧ State.reset.fault = none ∧ State.reset.video = none ∧ cleanScene.Inv ∧ cleanScene.fault = none ∧
    cleanScene.video = some cleanBuffers := ⟨by decide, by decide, reset_inv, rfl, rfl, cleanScene_inv, rfl, rfl⟩

/-- Dirty cells (scene) and clean cells (cleanScene). -/
theorem witness_FlushdirtyEffect :
    scene.Inv ∧ scene.fault = none ∧ scene.video = some newBuffers ∧ newBuffers.isDirty .bg 3 = true ∧
    cleanScene.Inv ∧ cleanScene.fault = none ∧ cleanScene.video = some cleanBuffers ∧
    cleanBuffers.isDirty .bg 3 = false := ⟨scene_inv, rfl, rfl, by decide, cleanScene_inv, rfl, rfl, by decide⟩

/-- The last offset of the BG video RAM is cell 3 of the attribute plane; cell 0 stays clean. -/
theorem witness_VideoWriteRedecodesOneCell :
    cleanScene.Inv ∧ cleanScene.fault = none ∧ cleanScene.video = some cleanBuffers ∧
    finds .main .mem 0x9007 bgRange ∧ bgRange.kind = .vid (.tilemap .bg) 0 ∧
    exec (.buswr .main .mem 0x9007 0x01) cleanScene = .next (next (.buswr .main .mem 0x9007 0x01) cleanScene) ∧
    cleanBuffers.isDirty .bg 0 = false :=
  ⟨cleanScene_inv, rfl, rfl, finds_bg, rfl, exec_next (by decide), by decide⟩

theorem witness_InvalallAndPalloadEffect :
    State.reset.Ready ∧ State.reset.video = none ∧ cleanScene.Ready ∧ cleanScene.video = some cleanBuffers :=
  ⟨ready rfl rfl, rfl, ready rfl rfl, rfl⟩

theorem witness_PalloadKeepsIndices :
    cleanScene.Inv ∧ cleanScene.CacheInv ∧ cleanScene.fault = none ∧
    exec .palload cleanScene = .next (next .palload cleanScene) ∧
    exec (.flushdirty .bg) (next .palload cleanScene) = .next (next (.flushdirty .bg) (next .palload cleanScene)) ∧
    (next (.flushdirty .bg) (next .palload cleanScene)).video.isSome = true ∧
    exec (.flushdirty .bg) cleanScene = .next (next (.flushdirty .bg) cleanScene) ∧
    (next (.flushdirty .bg) cleanScene).video.isSome = true :=
  ⟨cleanScene_inv, cleanScene_cache, rfl, exec_next (by decide), exec_next (by decide), by decide,
    exec_next (by decide), by decide⟩

/-- With a palette entry for every pixel: the palette is loaded and index 22 is in it. -/
theorem witness_FrameWithoutOverdraw :
    scene.Inv ∧ scene.CacheInv ∧ scene.fault = none ∧ scene.video = some newBuffers ∧ scene.overdraw = false ∧
    scene.paletteEntry 22 = some { token := 22 } := ⟨scene_inv, scene_cache, rfl, rfl, rfl, by decide⟩

theorem witness_FrameWithOverdraw :
    overScene.Inv ∧ overScene.CacheInv ∧ overScene.fault = none ∧ overScene.video = some newBuffers ∧
    overScene.overdraw = true := ⟨overScene_inv, overScene_cache, rfl, rfl, rfl⟩

/-- With the background enabled, and with it disabled. -/
theorem witness_FrameFlushesLayers :
    scene.Inv ∧ scene.fault = none ∧ scene.video = some newBuffers ∧ scene.bgEnable = true ∧
    exec .render scene = .next (next .render scene) ∧ (next .render scene).video.isSome = true ∧
    ({ scene with bgEnable := false }).Inv ∧
    exec .render { scene with bgEnable := false } = .next (next .render { scene with bgEnable := false }) :=
  ⟨scene_inv, rfl, rfl, rfl, exec_next (by decide), by decide, State.inv_of_check fx_valid (by decide),
    exec_next (by decide)⟩

theorem witness_RenderIndependentOfDirtyHistory :
    cleanScene.Inv ∧ cleanScene.CacheInv ∧ cleanScene.fault = none ∧ cleanScene.video = some cleanBuffers ∧
    State.Inv { cleanScene with video := some newBuffers } ∧
    State.CacheInv { cleanScene with video := some newBuffers } ∧ newBuffers.acc = cleanBuffers.acc ∧
    exec .render cleanScene = .next (next .render cleanScene) ∧ (next .render cleanScene).video.isSome = true ∧
    exec .render { cleanScene with video := some newBuffers } = .next (next .render scene) ∧
    (next .render scene).video.isSome = true :=
  ⟨cleanScene_inv, cleanScene_cache, rfl, rfl, scene_inv, scene_cache, rfl, exec_next (by decide), by decide,
    exec_next (s := scene) (by decide), by decide⟩

/-- Horizontally to the largest scroll value, 511 = 507 + 4; vertically from 0 to 4. -/
theorem witness_ScrollWraparound :
    exec .render { scene with scrollXLo := 0xFB, scrollXHi := 1 } =
      .next (next .render { scene with scrollXLo := 0xFB, scrollXHi := 1 }) ∧
    (1 : BitVec 1).toNat * 256 + (0xFF : Byte).toNat =
      (1 : BitVec 1).toNat * 256 + (0xFB : Byte).toNat + Config.fx.surfaceW .bg ∧
    exec .render scene = .next (next .render scene) ∧
    (0 : BitVec 1).toNat * 256 + (4 : Byte).toNat =
      scene.scrollYHi.toNat * 256 + scene.scrollYLo.toNat + scene.cfg.surfaceH .bg :=
  ⟨exec_next (by decide), by decide, exec_next (by decide), by decide⟩

/-- The buffers a state holds. -/
def buffers (s : State) : VideoState := s.video.getD newBuffers

/-- Program P4's second frame: sprite 0 moved to x = 1 and sprite 1 to x = 2. -/
def moved (s : State) : State := { s with sprram := [(0, 2), (2, 0x11), (3, 1), (4, 2), (6, 0x41), (7, 2)] }

/-- `s` with an accumulation buffer that is all TRANSPARENT. -/
def cleared (s : State) : State := { s with video := some { buffers s with acc := clearAcc Config.fx } }

/-- One frame without overdraw, and program P4's two frames. -/
theorem witness_OverdrawUnion :
    (scene.fault = none ∧ scene.overdraw = false ∧ scene.video = some newBuffers ∧
      exec .render scene = .next (next .render scene) ∧
      (next .render scene).video = some (buffers (next .render scene))) ∧
    let t' := moved (next .render overScene)
    overScene.Inv ∧ overScene.fault = none ∧ overScene.overdraw = true ∧ overScene.video = some newBuffers ∧
    exec .render overScene = .next (next .render overScene) ∧
    (next .render overScene).video = some (buffers (next .render overScene)) ∧
    t'.Inv ∧ t'.cfg = overScene.cfg ∧ t'.fault = none ∧ t'.overdraw = true ∧ t'.video = some (buffers t') ∧
    (buffers t').acc = (buffers (next .render overScene)).acc ∧
    exec .render t' = .next (next .render t') ∧ (next .render t').video.isSome = true ∧
    exec .render (cleared overScene) = .next (next .render (cleared overScene)) ∧
    (next .render (cleared overScene)).video.isSome = true ∧
    exec .render (cleared t') = .next (next .render (cleared t')) ∧ (next .render (cleared t')).video.isSome = true ∧
    1 < Config.fx.raster.visH ∧ 3 < Config.fx.raster.visW :=
  ⟨⟨rfl, rfl, rfl, exec_next (by decide), by decide⟩,
    overScene_inv, rfl, rfl, rfl, exec_next (by decide), by decide, State.inv_of_check fx_valid (by decide), rfl,
    by decide, by decide, by decide, rfl,
    exec_next (by decide), by decide, exec_next (by decide), by decide, exec_next (by decide), by decide, by decide,
    by decide⟩

theorem witness_SpriteOriginShift :
    Config.fx.sprite.ySense = .inverted ∧ ({ Config.fx.sprite with ySense := .direct }).ySense = .direct := ⟨rfl, rfl⟩

/-- A success and a failure supplied by the host, and none supplied. -/
theorem witness_VidstartEffect :
    ({ scene with allocs := [true] }).Ready ∧ ({ scene with allocs := [false] }).Ready ∧ State.reset.Ready ∧
    State.reset.allocs = [] := ⟨ready rfl rfl, ready rfl rfl, ready rfl rfl, rfl⟩

theorem witness_VidstopEffect : scene.Ready := ready rfl rfl

/-- With the video stopped, and with it started. -/
theorem witness_ResetEffect :
    State.reset.Ready ∧ State.reset.video = none ∧ cleanScene.Ready ∧ cleanScene.video = some cleanBuffers :=
  ⟨ready rfl rfl, rfl, ready rfl rfl, rfl⟩

theorem witness_TickEffect :
    State.reset.Ready ∧ ({ State.reset with seqEnableMain := true, seqEnableSound := true }).Ready :=
  ⟨ready rfl rfl, ready rfl rfl⟩

/-- Two states that differ in the other instance's bit, and a write to each enable register. -/
theorem witness_SequencerIndependence :
    (State.reset.Ready ∧ ({ State.reset with seqEnableSound := true }).Ready ∧
      State.seqEnable { State.reset with seqEnableSound := true } .main = State.reset.seqEnable .main) ∧
    finds .main .mem 0xA007 (regAt 0xA007 0x10 0x08) ∧
    exec (.buswr .main .mem 0xA007 0x01) State.reset = .next (next (.buswr .main .mem 0xA007 0x01) State.reset) ∧
    finds .sound .mem 0x2001 (regAt 0x2001 0x10 0x09) ∧
    exec (.buswr .sound .mem 0x2001 0x01) State.reset = .next (next (.buswr .sound .mem 0x2001 0x01) State.reset) := by
  refine ⟨⟨ready rfl rfl, ready rfl rfl, rfl⟩, ?_, exec_next (by decide), ?_, exec_next (by decide)⟩ <;>
    unfold finds <;> decide

/-- The enable register of each instance, with the bit 0 before the write. -/
theorem witness_EnableTakesEffectAtNextTick :
    State.reset.Ready ∧ finds .main .mem 0xA007 (regAt 0xA007 0x10 0x08) ∧
    finds .sound .mem 0x2001 (regAt 0x2001 0x10 0x09) ∧ State.reset.seqEnable .main = false ∧
    State.reset.seqEnable .sound = false := by
  refine ⟨ready rfl rfl, ?_, ?_, rfl, rfl⟩ <;> unfold finds <;> decide

theorem witness_MailboxCommands : State.reset.Ready ∧ finds .sound .mem 0x2000 (regAt 0x2000 0x11 0x0B) := by
  refine ⟨ready rfl rfl, ?_⟩
  unfold finds
  decide

theorem witness_MbrdReturnsLatch :
    bits (0xC0000000 : Word) 31 28 = 0xC ∧ bits (0xC0000001 : Word) 31 28 = 0xC ∧ State.reset.Ready ∧
    exec .mbrd State.reset = .next (next .mbrd State.reset) ∧
    finds .sound .mem 0x2000 (regAt 0x2000 0x11 0x0B) := by
  refine ⟨by decide, by decide, ready rfl rfl, exec_next (by decide), ?_⟩
  unfold finds
  decide

/-- `mbwr 0x42`, then a read, a clear and a bus write to another register (program P1). -/
theorem witness_MailboxNoAutoClear :
    let a := next (.mbwr 0x42) State.reset
    let b := next .mbrd a
    let c := next .mbclr b
    State.reset.Ready ∧ exec (.mbwr 0x42) State.reset = .next a ∧
    (∀ i ∈ [Instr.mbrd, Instr.mbclr, Instr.buswr .main .mem 0xA001 0x10],
      mayWriteLatch State.reset.cfg i = false) ∧
    execAll [.mbrd, .mbclr, .buswr .main .mem 0xA001 0x10] a = .next (next (.buswr .main .mem 0xA001 0x10) c) ∧
    (next (.buswr .main .mem 0xA001 0x10) c).fault = none :=
  ⟨ready rfl rfl, exec_next (by decide), by decide, rfl, by decide⟩

end Sys2Proof.Tests
end

section
/-! SUPPORT. The video-started bit (10_state.md R122): what each shared operation of the model leaves of it, and from
those its life over every command, which is O15. -/

namespace Sys2Proof.Machine

section
variable {s t : State}

/-! ### What leaves the video buffers alone -/

theorem State.videoOn_congr (h : t.video = s.video) : t.videoOn = s.videoOn := congrArg Option.isSome h

/-- The video is stopped exactly while it has no buffers (10_state.md R122, R140 to R143). -/
theorem State.videoOn_eq_false_iff : s.videoOn = false ↔ s.video = none :=
  Option.isSome_eq_false_iff.trans Option.isNone_iff_eq_none

@[simp] theorem State.drawInput_video (s : State) (arg : Nat) : (s.drawInput arg).2.video = s.video := by
  unfold State.drawInput
  split <;> rfl

@[simp] theorem State.readHandler_video (s : State) (hd : ReadHandler) (arg : Nat) :
    (s.readHandler hd arg).2.video = s.video := by
  cases hd with
  | input => exact s.drawInput_video arg
  | openBus | soundCommand => rfl

/-- W_OVERDRAW is the only write handler that touches the video buffers (40_dispatch.md R430 to R443). -/
theorem State.writeHandler_video {hd : WriteHandler} (h : hd ≠ .overdraw) (s : State) (arg : Nat) (d : Byte) :
    (s.writeHandler hd arg d).video = s.video := by
  cases hd with
  | overdraw => exact absurd rfl h
  | bankSelect => exact s.selectBank_video d
  | soundCommand => exact s.writeCommand_video d
  | _ => rfl

/-! ### What rewrites buffers without creating or destroying them -/

@[simp] theorem State.markDirty_videoOn (s : State) (L : Layer) (i : Nat) : (s.markDirty L i).videoOn = s.videoOn :=
  Option.isSome_map

@[simp] theorem State.forceAllDirty_videoOn (s : State) : s.forceAllDirty.videoOn = s.videoOn := Option.isSome_map

@[simp] theorem State.loadPalette_videoOn (s : State) : s.loadPalette.videoOn = s.videoOn :=
  forceAllDirty_videoOn _

@[simp] theorem State.resetMachine_videoOn (s : State) : s.resetMachine.videoOn = s.videoOn :=
  forceAllDirty_videoOn _

@[simp] theorem State.wOverdraw_videoOn (s : State) (arg : Nat) (d : Byte) :
    (s.wOverdraw arg d).videoOn = s.videoOn := by
  unfold State.wOverdraw State.videoOn
  split
  · exact Option.isSome_map
  · rfl

@[simp] theorem State.writeHandler_videoOn (s : State) (hd : WriteHandler) (arg : Nat) (d : Byte) :
    (s.writeHandler hd arg d).videoOn = s.videoOn := by
  by_cases h : hd = .overdraw
  · subst h
    exact s.wOverdraw_videoOn arg d
  · exact videoOn_congr (writeHandler_video h s arg d)

@[simp] theorem State.writeLoc_videoOn (s : State) (l : Loc) (v : Byte) : (s.writeLoc l v).videoOn = s.videoOn := by
  cases l with
  | tile L p i => exact markDirty_videoOn _ L i
  | rom | ram | sprite => rfl

/-! ### How a command ends -/

theorem finish_videoOn {r : CmdResult} (h : finish r s = .next t) : t.videoOn = s.videoOn := by
  rw [finish_eq_next h]
  rfl

theorem raiseFault_videoOn {r : FaultReason} (h : raiseFault r s = .next t) : t.videoOn = s.videoOn := by
  rw [raiseFault_eq_next h]
  rfl

/-- A command keeps the started bit when its body does: a halted machine keeps it anyway (60_exceptions.md R810). -/
theorem exec_videoOn_of_body {i : Instr} {body : State → Host.Outcome State Fault Refusal}
    (heq : exec i s = perform s body) (h : exec i s = .next t) (hbody : body s = .next t → t.videoOn = s.videoOn) :
    t.videoOn = s.videoOn := by
  obtain ⟨-, ⟨-, hrun⟩ | ⟨-, rfl⟩⟩ := perform_cases (heq.symm.trans h)
  · exact hbody hrun
  · rfl

/-- A command that always ends, in a state that keeps the started bit, keeps it. -/
theorem exec_videoOn_of_finish {i : Instr} {r : State → CmdResult} {f : State → State}
    (heq : exec i s = perform s fun s => finish (r s) (f s)) (h : exec i s = .next t)
    (hf : (f s).videoOn = s.videoOn) : t.videoOn = s.videoOn :=
  exec_videoOn_of_body heq h fun hrun => by rw [finish_videoOn hrun, hf]

theorem State.memRead_videoOn {cpu : Cpu} {sp : Space} {a : Addr} (h : s.memRead cpu sp a = .next t) :
    t.videoOn = s.videoOn := by
  obtain ⟨-, rfl⟩ | ⟨r, l, -, -, rfl⟩ | ⟨r, rh, wh, arg, hd, -, -, -, rfl⟩ := memRead_cases h
  · rfl
  · rfl
  · exact videoOn_congr (s.readHandler_video hd arg)

theorem State.memWrite_videoOn {cpu : Cpu} {sp : Space} {a : Addr} {v : Byte} (h : s.memWrite cpu sp a v = .next t) :
    t.videoOn = s.videoOn := by
  obtain ⟨-, rfl⟩ | ⟨r, l, -, -, rfl⟩ | ⟨r, rh, wh, arg, hd, -, -, -, rfl⟩ := memWrite_cases h
  · rfl
  · exact s.writeLoc_videoOn l v
  · exact s.writeHandler_videoOn hd arg v

/-- The shape of FLUSHDIRTY and RENDER: VideoNotStarted with the video stopped, else new contents for the buffers
that stand (60_exceptions.md R802). -/
theorem needsVideo_videoOn {f : VideoState → State} (hf : ∀ v, (f v).videoOn = true)
    (h : (match s.video with
      | none => raiseFault .videoNotStarted s
      | some v => finish .ok (f v)) = .next t) : t.videoOn = s.videoOn := by
  cases hv : s.video with
  | none =>
    rw [hv] at h
    exact raiseFault_videoOn h
  | some v =>
    rw [hv] at h
    have hon : s.videoOn = true := by rw [State.videoOn, hv, Option.isSome_some]
    rw [finish_videoOn h, hf, hon]

/-! ### The commands -/

/-- Every command but VIDSTART and VIDSTOP keeps the started bit, on a halted machine too (10_state.md R122). -/
theorem exec_videoOn {i : Instr} (h : exec i s = .next t) (hstart : i ≠ .vidstart) (hstop : i ≠ .vidstop) :
    t.videoOn = s.videoOn := by
  cases i with
  | vidstart => exact absurd rfl hstart
  | vidstop => exact absurd rfl hstop
  | busrd cpu sp a => exact exec_videoOn_of_body (exec_busrd s cpu sp a) h State.memRead_videoOn
  | buswr cpu sp a v => exact exec_videoOn_of_body (exec_buswr s cpu sp a v) h State.memWrite_videoOn
  | flushdirty L => exact exec_videoOn_of_body (exec_flushdirty s L) h (needsVideo_videoOn fun _ => rfl)
  | render => exact exec_videoOn_of_body (exec_render s) h (needsVideo_videoOn fun _ => rfl)
  | decode k tile c fx fy =>
    refine exec_videoOn_of_body (exec_decode s k tile c fx fy) h fun hrun => ?_
    split at hrun
    · exact finish_videoOn hrun
    · exact raiseFault_videoOn hrun
  | markdirty L cell => exact exec_videoOn_of_finish (exec_markdirty s L cell) h (s.markDirty_videoOn L cell.toNat)
  | invalall => exact exec_videoOn_of_finish (exec_invalall s) h s.forceAllDirty_videoOn
  | palload => exact exec_videoOn_of_finish (exec_palload s) h s.loadPalette_videoOn
  | reset => exact exec_videoOn_of_finish (exec_reset s) h s.resetMachine_videoOn
  | selbank v => exact exec_videoOn_of_finish (exec_selbank s v) h (State.videoOn_congr (s.selectBank_video v))
  | tick q => exact exec_videoOn_of_finish (exec_tick s q) h (State.videoOn_congr (s.tick_video q))
  | mbwr v => exact exec_videoOn_of_finish (exec_mbwr s v) h (State.videoOn_congr (s.writeCommand_video v))
  | mbrd => exact exec_videoOn_of_finish (exec_mbrd s) h rfl
  | mbclr => exact exec_videoOn_of_finish (exec_mbclr s) h (State.videoOn_congr s.clearPending_video)

/-- VIDSTART answers `ok` with the video started or `failed` with it stopped, whatever stood before (44_compositor.md
R660, 60_exceptions.md R830, R831). -/
theorem exec_vidstart_videoOn (hs : s.Ready) (h : exec .vidstart s = .next t) :
    (t.result = some .ok ∧ t.videoOn = true) ∨ (t.result = some .failed ∧ t.videoOn = false) := by
  rw [exec_vidstart, perform_ready hs.cfgValid hs.noFault] at h
  rw [finish_eq_next h]
  cases s.videoStop.drawAlloc.1 with
  | true => exact .inl ⟨rfl, rfl⟩
  | false => exact .inr ⟨rfl, rfl⟩

/-- VIDSTOP leaves the video stopped (44_compositor.md R662). -/
theorem exec_vidstop_videoOn (hs : s.Ready) (h : exec .vidstop s = .next t) : t.videoOn = false := by
  rw [exec_vidstop, perform_ready hs.cfgValid hs.noFault] at h
  rw [finish_eq_next h]
  rfl

end

/-- Settles O15, command by command: VIDSTART by the allocation it draws, VIDSTOP, and the frame of the rest. -/
theorem videoLifetime : Obligations.VideoLifetime := by
  intro i s t hs h
  refine ⟨exec_videoOn h, ?_, ?_, State.videoOn_eq_false_iff⟩
  · rintro rfl
    exact exec_vidstart_videoOn hs h
  · rintro rfl
    exact exec_vidstop_videoOn hs h

end Sys2Proof.Machine
end

section
/-! SUPPORT. The register forms of commands (40_dispatch.md R431, R440): what BUSWR to a register range performs, and
which CPU's tables name W_SOUND_COMMAND. O29 is the two put together. -/

namespace Sys2Proof.Machine

section
variable {s : State} {cpu : Cpu} {sp : Space} {a : Addr} {r : AddressRange} {rh wh : BitVec 5} {arg : Nat}

/-- A machine that is ready to run performs the write handler of the register range the address is found in, and
answers `ok` (40_dispatch.md R420). -/
theorem exec_buswr_reg (hs : s.Ready) (hf : findRange s.cfg cpu sp a = some r) (hk : r.kind = .reg rh wh arg)
    {hd : WriteHandler} (hh : writeHandlerOf wh = some hd) (d : Byte) :
    exec (.buswr cpu sp a d) s = finish .ok (s.writeHandler hd arg d) := by
  rw [exec_buswr, perform_ready hs.cfgValid hs.noFault]
  exact State.memWrite_reg hf hk hh

/-- In a checked configuration only the main CPU's tables name W_SOUND_COMMAND (40_dispatch.md R440, 60_exceptions.md
R855). -/
theorem cpu_eq_main_of_soundCommand {c : Config} (hv : c.valid = true) (hf : findRange c cpu sp a = some r)
    (hk : r.kind = .reg rh wh arg) (hh : writeHandlerOf wh = some .soundCommand) : cpu = .main := by
  obtain ⟨hmem, -, -⟩ := findRange_spec hf
  obtain ⟨-, -, hside⟩ := Config.range_checked hv hmem
  cases cpu with
  | main => rfl
  | sound => simp [AddressRange.mailboxSide, hk, hh] at hside

end

/-- Settles O29: the handler named by each code is the state function SELBANK or MBWR performs, and the configuration
check on the mailbox's direction puts W_SOUND_COMMAND on the main CPU's side. -/
theorem registerFormsOfCommands : Obligations.RegisterFormsOfCommands := by
  intro s cpu sp a d r rh wh arg hs hf hk
  constructor
  · rintro rfl
    calc exec (.buswr cpu sp a d) s
        = finish .ok (s.writeHandler .bankSelect arg d) := exec_buswr_reg hs hf hk rfl d
      _ = finish .ok (s.selectBank d) := rfl
      _ = exec (.selbank d) s := by rw [exec_selbank, perform_ready hs.cfgValid hs.noFault]
  · rintro rfl
    refine ⟨cpu_eq_main_of_soundCommand hs.cfgValid hf hk rfl, ?_⟩
    calc exec (.buswr cpu sp a d) s
        = finish .ok (s.writeHandler .soundCommand arg d) := exec_buswr_reg hs hf hk rfl d
      _ = finish .ok (s.writeCommand d) := rfl
      _ = exec (.mbwr d) s := by rw [exec_mbwr, perform_ready hs.cfgValid hs.noFault]

end Sys2Proof.Machine
end

section
/-! SUPPORT. MARKDIRTY (43_dirty.md R550): the words that decode to it, and what one marked cell changes. O40 is the
two put together. -/

namespace Sys2Proof

/-! ### The words of MARKDIRTY -/

/-- Layers 2 and 3 are illegal (30_encoding.md R305). -/
theorem layerOf_eq_none_iff {n : Nat} : layerOf n = none ↔ 2 ≤ n := by
  match n with
  | 0 => simp [layerOf]
  | 1 => simp [layerOf]
  | n + 2 => simp [layerOf]

theorem reserved_eq_none_iff {fields : List Nat} {i : Instr} :
    reserved fields i = none ↔ ∃ f ∈ fields, f ≠ 0 := by
  simp [reserved]

theorem decodeMarkdirty_eq_none_iff {w : Word} :
    decodeMarkdirty w = none ↔ 2 ≤ bits w 27 26 ∨ bits w 25 16 ≠ 0 := by
  rw [← layerOf_eq_none_iff]
  unfold decodeMarkdirty
  cases layerOf (bits w 27 26) with
  | none => simp
  | some L => simp [reserved_eq_none_iff]

/-- The format of MARKDIRTY yields no other command. -/
theorem eq_markdirty_of_decodeMarkdirty {w : Word} {i : Instr} (h : decodeMarkdirty w = some i) :
    ∃ L cell, i = .markdirty L cell := by
  unfold decodeMarkdirty reserved at h
  cases hL : layerOf (bits w 27 26) with
  | none => simp [hL] at h
  | some L =>
    simp only [hL, Option.ite_none_right_eq_some, Option.some.injEq] at h
    exact ⟨L, _, h.2.symm⟩

/-- A word with opcode 5 is legal as its format is: the configuration constrains no operand of MARKDIRTY (30_encoding.md
R305). -/
theorem legalCommand_of_opcode_markdirty {w : Word} (hop : bits w 31 28 = 0x5) (c : Config) :
    legalCommand c w = decodeMarkdirty w := by
  have hw : decodeWord w = decodeMarkdirty w := by simp only [decodeWord, hop]
  unfold legalCommand
  rw [hw]
  cases hd : decodeMarkdirty w with
  | none => rfl
  | some i =>
    obtain ⟨L, cell, rfl⟩ := eq_markdirty_of_decodeMarkdirty hd
    rfl

end Sys2Proof

namespace Sys2Proof.Machine

/-! ### The cells of a layer -/

/-- A checked configuration gives every layer at least one cell (00_scope.md R13). -/
theorem Config.cellCount_pos {c : Config} (hv : c.valid = true) (L : Layer) : 0 < c.cellCount L := by
  have htyped : (c.layers.get L).typed = true := by
    have := Config.valid_typed hv
    simp only [Config.typed, Bool.and_eq_true] at this
    obtain ⟨⟨⟨-, hbg⟩, hfg⟩, -⟩ := this
    cases L with
    | bg => exact hbg
    | fg => exact hfg
  simp only [LayerCfg.typed, Bool.and_eq_true, decide_eq_true_eq] at htyped
  obtain ⟨⟨hcols, hrows⟩, -⟩ := htyped
  exact Nat.mul_pos hcols hrows

section
variable {s : State} {v : VideoState}

/-- The flag a cell number names after its reduction modulo `cellCount` is one the layer has (10_state.md R140). -/
theorem State.Inv.mod_cellCount_lt (h : s.Inv) (hv : s.video = some v) (L : Layer) (i : Nat) :
    i % s.cfg.cellCount L < (v.dirty.get L).length := by
  obtain ⟨hlen, -, -, -⟩ := (v.sized_iff s.cfg).mp (h.videoSized v hv)
  rw [hlen L]
  exact Nat.mod_lt _ (Config.cellCount_pos h.cfgValid L)

/-! ### MarkDirty -/

theorem State.markDirty_of_stopped (hv : s.video = none) (L : Layer) (i : Nat) : s.markDirty L i = s := by
  have hmap : (s.markDirty L i).video = s.video := by rw [State.markDirty_video, hv, Option.map_none]
  calc s.markDirty L i
      = { s with video := (s.markDirty L i).video } := rfl
    _ = s := by rw [hmap]

theorem State.markDirty_of_started (hv : s.video = some v) (L : Layer) (i : Nat) :
    s.markDirty L i = { s with video := some (v.setDirty L (i % s.cfg.cellCount L) true) } := by
  unfold State.markDirty
  rw [hv, Option.map_some]

/-- MARKDIRTY on a machine that performs commands marks the cell and answers `ok`, started or stopped. -/
theorem exec_markdirty_ready (hs : s.Ready) (L : Layer) (cell : BitVec 16) :
    exec (.markdirty L cell) s = finish .ok (s.markDirty L cell.toNat) := by
  rw [exec_markdirty, perform_ready hs.cfgValid hs.noFault]

end

/-- Settles O40: the illegal words by the format of MARKDIRTY, the effect by the two forms of MarkDirty and the flag
`setDirty` writes, which `Inv` puts inside the layer. -/
theorem markdirtyEffect : Obligations.MarkdirtyEffect := by
  refine ⟨fun c w hop => ?_, fun s L cell hinv hf => ⟨fun hv => ?_, fun v hv => ?_⟩⟩
  · rw [legalCommand_of_opcode_markdirty hop c, decodeMarkdirty_eq_none_iff]
  · rw [exec_markdirty_ready ⟨hinv.cfgValid, hf⟩, State.markDirty_of_stopped hv]
    rfl
  · refine ⟨(v.setDirty L (cell.toNat % s.cfg.cellCount L) true).dirty, ?_, ?_⟩
    · rw [exec_markdirty_ready ⟨hinv.cfgValid, hf⟩, State.markDirty_of_started hv]
      rfl
    · exact v.isDirty_setDirty true (hinv.mod_cellCount_lt hv L cell.toNat)

end Sys2Proof.Machine
end

section
/-! SUPPORT. MBRD (46_mailbox.md R752): the words that decode to it, what one read answers, and its register form
R_SOUND_COMMAND (40_dispatch.md R445). O59 is these put together. -/

namespace Sys2Proof

/-! ### The words of MBRD -/

/-- When the configuration constrains no operand of a command, the reserved fields of its format alone decide whether a
word is legal (30_encoding.md R305). -/
theorem legalCommand_of_reserved {c : Config} {w : Word} {fields : List Nat} {i : Instr}
    (hw : decodeWord w = reserved fields i) (hi : i.wellFormed c = true) : legalCommand c w = reserved fields i := by
  unfold legalCommand
  rw [hw]
  unfold reserved
  by_cases hzero : fields.all (· == 0) = true
  · simp only [hzero, if_true, hi]
  · simp only [hzero]
    rfl

theorem legalCommand_mbrd_eq_none_iff {w : Word} (hop : bits w 31 28 = 0xC) (c : Config) :
    legalCommand c w = none ↔ bits w 27 0 ≠ 0 := by
  have hw : decodeWord w = reserved [bits w 27 0] .mbrd := by simp only [decodeWord, hop, decodeNoOperand]
  rw [legalCommand_of_reserved hw rfl, reserved_eq_none_iff]
  simp only [List.mem_singleton, exists_eq_left]

end Sys2Proof

namespace Sys2Proof.Machine

section
variable {s t : State} {cpu : Cpu} {sp : Space} {a : Addr} {r : AddressRange} {rh wh : BitVec 5} {arg : Nat}

/-! ### The read -/

/-- A machine that is ready to run answers MBRD with the latch and keeps everything else (46_mailbox.md R752). -/
theorem exec_mbrd_ready (hs : s.Ready) : exec .mbrd s = .next { s with result := some (.byte s.mbLatch) } := by
  rw [exec_mbrd, perform_ready hs.cfgValid hs.noFault]
  rfl

/-- The state after one MBRD is a fixed point of MBRD: it holds the same latch, and its result is already that byte. -/
theorem exec_mbrd_again (hs : s.Ready) (h : exec .mbrd s = .next t) : exec .mbrd t = .next t := by
  rw [exec_mbrd_ready hs] at h
  cases h
  exact exec_mbrd_ready ⟨hs.cfgValid, hs.noFault⟩

/-! ### The register form -/

/-- A machine that is ready to run performs the read handler of the register range the address is found in, and answers
its byte (40_dispatch.md R410). -/
theorem exec_busrd_reg (hs : s.Ready) (hf : findRange s.cfg cpu sp a = some r) (hk : r.kind = .reg rh wh arg)
    {hd : ReadHandler} (hh : readHandlerOf rh = some hd) :
    exec (.busrd cpu sp a) s = finish (.byte (s.readHandler hd arg).1) (s.readHandler hd arg).2 := by
  rw [exec_busrd, perform_ready hs.cfgValid hs.noFault]
  exact State.memRead_reg hf hk hh

/-- In a checked configuration only the sound CPU's tables name R_SOUND_COMMAND (40_dispatch.md R445, 60_exceptions.md
R855). -/
theorem cpu_eq_sound_of_readSoundCommand {c : Config} (hv : c.valid = true) (hf : findRange c cpu sp a = some r)
    (hk : r.kind = .reg rh wh arg) (hh : readHandlerOf rh = some .soundCommand) : cpu = .sound := by
  obtain ⟨hmem, -, -⟩ := findRange_spec hf
  obtain ⟨-, -, hside⟩ := Config.range_checked hv hmem
  cases cpu with
  | main => simp [AddressRange.mailboxSide, hk, hh] at hside
  | sound => rfl

end

/-- Settles O59: the illegal words by the format of MBRD, the read and its repetition by what one MBRD answers, and the
register form by the handler R_SOUND_COMMAND names and the configuration check on the mailbox's direction. -/
theorem mbrdReturnsLatch : Obligations.MbrdReturnsLatch := by
  refine ⟨fun c w hop => legalCommand_mbrd_eq_none_iff hop c,
    fun s hs => ⟨exec_mbrd_ready hs, fun t => exec_mbrd_again hs, ?_⟩⟩
  rintro cpu sp a r rh wh arg hf hk rfl
  refine ⟨cpu_eq_sound_of_readSoundCommand hs.cfgValid hf hk rfl, ?_⟩
  calc exec (.busrd cpu sp a) s
      = finish (.byte (s.readHandler .soundCommand arg).1) (s.readHandler .soundCommand arg).2 :=
        exec_busrd_reg hs hf hk rfl
    _ = finish (.byte s.readCommand) s := rfl
    _ = exec .mbrd s := by rw [exec_mbrd, perform_ready hs.cfgValid hs.noFault]

end Sys2Proof.Machine
end

section
/-! SUPPORT. Enable registers and ticks (45_sequencer.md R710, 70_reset_and_hazards.md R944): what a write of an enable
register and what a tick leave for the command after it. O57 is the two, one after the other in either order. -/

namespace Sys2Proof.Machine

/-- The write handler of a sequencer's enable register (40_dispatch.md R438, R439). -/
def Sequencer.enableHandler : Sequencer → WriteHandler
  | .main => .intenMain
  | .sound => .intenSound

theorem writeHandlerOf_eq_enableHandler {q : Sequencer} {wh : BitVec 5} (hmain : q = .main → wh = 0x08)
    (hsound : q = .sound → wh = 0x09) : writeHandlerOf wh = some (Sequencer.enableHandler q) := by
  cases q with
  | main =>
    rw [hmain rfl]
    rfl
  | sound =>
    rw [hsound rfl]
    rfl

section
variable {s : State} {q : Sequencer} {cpu : Cpu} {sp : Space} {a : Addr} {r : AddressRange} {rh wh : BitVec 5}
  {arg : Nat}

/-- A write of an enable register stores bit 0 of the byte in that instance's flag and raises nothing
(40_dispatch.md R438, R439). -/
theorem exec_buswr_enable (hs : s.Ready) (hf : findRange s.cfg cpu sp a = some r) (hk : r.kind = .reg rh wh arg)
    (hh : writeHandlerOf wh = some (Sequencer.enableHandler q)) (d : Byte) :
    ∃ t, exec (.buswr cpu sp a d) s = .next t ∧ t.Ready ∧ t.cfg = s.cfg ∧ t.seqEnable q = d.getLsbD 0 ∧
      t.events = s.events := by
  refine ⟨_, exec_buswr_reg hs hf hk hh d, ?_⟩
  cases q with
  | main => exact ⟨⟨hs.cfgValid, hs.noFault⟩, rfl, rfl, rfl⟩
  | sound => exact ⟨⟨hs.cfgValid, hs.noFault⟩, rfl, rfl, rfl⟩

/-- A tick raises its instance's request exactly when it finds the bit set, and leaves a machine that is ready to run
in the same configuration (45_sequencer.md R710). -/
theorem exec_tick_ready (hs : s.Ready) (q : Sequencer) :
    ∃ t, exec (.tick q) s = .next t ∧ t.Ready ∧ t.cfg = s.cfg ∧
      t.events = s.events ++ (if s.seqEnable q then [.intReq (Sequencer.target q) (seqKind s.cfg q)] else []) := by
  have hrun : exec (.tick q) s = finish .ok (s.tick q) := by rw [exec_tick, perform_ready hs.cfgValid hs.noFault]
  have hcfg : (s.tick q).cfg = s.cfg := s.tick_cfg q
  exact ⟨_, hrun, ⟨hcfg ▸ hs.cfgValid, (s.tick_fault q).trans hs.noFault⟩, hcfg, s.tick_events q⟩

end

/-- Settles O57: the tick after a write finds the bit written, and the write after a lost tick raises nothing of its
own. -/
theorem enableTakesEffectAtNextTick : Obligations.EnableTakesEffectAtNextTick := by
  intro q s cpu sp a d r rh wh arg hs hf hk hmain hsound
  have hh : writeHandlerOf wh = some (Sequencer.enableHandler q) := writeHandlerOf_eq_enableHandler hmain hsound
  constructor
  · obtain ⟨t, hwrite, ht, hcfg, hbit, hkept⟩ := exec_buswr_enable hs hf hk hh d
    obtain ⟨u, htick, -, -, hraised⟩ := exec_tick_ready ht q
    exact ⟨t, u, hwrite, htick, by rw [hraised, hkept, hbit, hcfg]⟩
  · intro hoff
    obtain ⟨t, htick, ht, hcfg, hraised⟩ := exec_tick_ready hs q
    have hlost : t.events = s.events := by simpa [hoff] using hraised
    obtain ⟨u, hwrite, -, -, -, hkept⟩ := exec_buswr_enable ht (hcfg ▸ hf) hk hh d
    exact ⟨t, u, htick, hwrite, hkept.trans hlost⟩

end Sys2Proof.Machine
end

section
/-! SUPPORT. The command word (30_encoding.md): the fields of an encoded command, the command each format decodes to,
and the words no format accepts. O1 and O2 are the two directions of `decodeWord w = some i ↔ encode i = w`, O3's first
clause is the list of illegal words. -/

namespace Sys2Proof

/-! ### The one-bit fields (30_encoding.md R303) -/

theorem Cpu.bit_lt (c : Cpu) : c.bit < 2 := by cases c <;> decide
theorem Space.bit_lt (s : Space) : s.bit < 2 := by cases s <;> decide
theorem Layer.bit_lt (L : Layer) : L.bit < 2 := by cases L <;> decide
theorem Sequencer.bit_lt (q : Sequencer) : Sequencer.bit q < 2 := by cases q <;> decide

@[simp] theorem cpuOf_bit (c : Cpu) : cpuOf c.bit = c := by cases c <;> rfl
@[simp] theorem spaceOf_bit (s : Space) : spaceOf s.bit = s := by cases s <;> rfl
@[simp] theorem layerOf_bit (L : Layer) : layerOf L.bit = some L := by cases L <;> rfl
@[simp] theorem seqOf_bit (q : Sequencer) : seqOf (Sequencer.bit q) = q := by cases q <;> rfl
@[simp] theorem flag_toNat (b : Bool) : flag b.toNat = b := by cases b <;> rfl

theorem bit_cpuOf {v : Nat} (h : v < 2) : (cpuOf v).bit = v := by
  match v, h with
  | 0, _ => rfl
  | 1, _ => rfl

theorem bit_spaceOf {v : Nat} (h : v < 2) : (spaceOf v).bit = v := by
  match v, h with
  | 0, _ => rfl
  | 1, _ => rfl

theorem bit_seqOf {v : Nat} (h : v < 2) : Sequencer.bit (seqOf v) = v := by
  match v, h with
  | 0, _ => rfl
  | 1, _ => rfl

theorem toNat_flag {v : Nat} (h : v < 2) : (flag v).toNat = v := by
  match v, h with
  | 0, _ => rfl
  | 1, _ => rfl

theorem bit_of_layerOf {v : Nat} {L : Layer} (h : layerOf v = some L) : L.bit = v := by
  match v with
  | 0 => cases h; rfl
  | 1 => cases h; rfl
  | v + 2 => cases h

/-! ### Fields of a word -/

theorem bits_lt (w : Word) (hi lo : Nat) : bits w hi lo < 2 ^ (hi + 1 - lo) :=
  Nat.mod_lt _ (Nat.two_pow_pos _)

/-- A field of a word, taken as an operand of the field's width, keeps its value. -/
theorem toNat_ofNat_bits (w : Word) (hi lo : Nat) :
    (BitVec.ofNat (hi + 1 - lo) (bits w hi lo)).toNat = bits w hi lo := by
  rw [BitVec.toNat_ofNat, Nat.mod_eq_of_lt (bits_lt w hi lo)]

theorem reserved_eq_some_iff {fields : List Nat} {i j : Instr} :
    reserved fields i = some j ↔ (∀ f ∈ fields, f = 0) ∧ i = j := by
  simp [reserved]

/-! ### Every command: its operands fit, its opcode stands in the top field -/

theorem encodeOpcode (i : Instr) : Laws.EncodeOpcode.Statement i := by
  cases i with
  | busrd cpu space addr => exact Laws.EncodeOpcode.busrd cpu space addr
  | buswr cpu space addr data => exact Laws.EncodeOpcode.buswr cpu space addr data
  | selbank value => exact Laws.EncodeOpcode.selbank value
  | decode layout tile coloff fx fy => exact Laws.EncodeOpcode.decode layout tile coloff fx fy
  | markdirty layer cell => exact Laws.EncodeOpcode.markdirty layer cell
  | flushdirty layer => exact Laws.EncodeOpcode.flushdirty layer
  | invalall => exact Laws.EncodeOpcode.invalall
  | palload => exact Laws.EncodeOpcode.palload
  | render => exact Laws.EncodeOpcode.render
  | tick seq => exact Laws.EncodeOpcode.tick seq
  | mbwr value => exact Laws.EncodeOpcode.mbwr value
  | mbrd => exact Laws.EncodeOpcode.mbrd
  | mbclr => exact Laws.EncodeOpcode.mbclr
  | vidstart => exact Laws.EncodeOpcode.vidstart
  | vidstop => exact Laws.EncodeOpcode.vidstop
  | reset => exact Laws.EncodeOpcode.reset

theorem Instr.opcode_lt (i : Instr) : i.opcode < 16 := by
  cases i <;> simp [Instr.opcode]

theorem toNat_encode (i : Instr) : (encode i).toNat = i.opcode * 2 ^ 28 + i.operandBits := by
  have hop := i.opcode_lt
  obtain ⟨hfit, -⟩ := encodeOpcode i
  unfold encode
  rw [BitVec.toNat_ofNat, Nat.mod_eq_of_lt (by omega)]

/-- A field below the opcode is a field of the operand bits. -/
theorem bits_encode_operand (i : Instr) {hi lo : Nat} (hlo : lo ≤ hi) (hhi : hi < 28) :
    bits (encode i) hi lo = i.operandBits / 2 ^ lo % 2 ^ (hi + 1 - lo) := by
  have hpow : 2 ^ 28 = 2 ^ lo * (2 ^ (hi + 1 - lo) * 2 ^ (27 - hi)) := by
    rw [← pow_add, ← pow_add]
    congr 1
    omega
  calc bits (encode i) hi lo
      = (i.operandBits + 2 ^ lo * (2 ^ (hi + 1 - lo) * (2 ^ (27 - hi) * i.opcode))) / 2 ^ lo % 2 ^ (hi + 1 - lo) := by
        rw [bits, toNat_encode, hpow, Nat.add_comm, Nat.mul_comm i.opcode, Nat.mul_assoc, Nat.mul_assoc]
    _ = i.operandBits / 2 ^ lo % 2 ^ (hi + 1 - lo) := by
        rw [Nat.add_mul_div_left _ _ (Nat.two_pow_pos lo), Nat.add_mul_mod_self_left]

theorem bits_encode_eq {i : Instr} {hi lo n : Nat} (h : i.operandBits / 2 ^ lo % 2 ^ (hi + 1 - lo) = n)
    (hlo : lo ≤ hi := by decide) (hhi : hi < 28 := by decide) : bits (encode i) hi lo = n :=
  (bits_encode_operand i hlo hhi).trans h

/-- A word whose top field is the opcode and whose other 28 bits are the operands of a command is its word. -/
theorem encode_eq_of_fields {i : Instr} {w : Word} (hop : bits w 31 28 = i.opcode)
    (hrest : i.operandBits = w.toNat % 2 ^ 28) : encode i = w := by
  have hw := w.isLt
  have htop : w.toNat / 2 ^ 28 = i.opcode := by
    rw [← hop, bits, Nat.mod_eq_of_lt (Nat.div_lt_of_lt_mul (by omega))]
  apply BitVec.eq_of_toNat_eq
  rw [toNat_encode, hrest, ← htop, Nat.mul_comm]
  exact Nat.div_add_mod _ _

/-! ### Decoding an encoded command: each format reads back the fields its operands were put in (30_encoding.md R301,
R304) -/

theorem decodeWord_encode_busrd (cpu : Cpu) (sp : Space) (a : Addr) :
    decodeWord (encode (.busrd cpu sp a)) = some (.busrd cpu sp a) := by
  obtain ⟨-, hop⟩ := encodeOpcode (.busrd cpu sp a)
  have hc := cpu.bit_lt
  have hs := sp.bit_lt
  have ha := a.isLt
  simp only [Instr.opcode] at hop
  have hres : bits (encode (.busrd cpu sp a)) 25 24 = 0 := bits_encode_eq (by rw [Instr.operandBits]; omega)
  have hdata : bits (encode (.busrd cpu sp a)) 23 16 = 0 := bits_encode_eq (by rw [Instr.operandBits]; omega)
  have hcpu : bits (encode (.busrd cpu sp a)) 27 27 = cpu.bit := bits_encode_eq (by rw [Instr.operandBits]; omega)
  have hspace : bits (encode (.busrd cpu sp a)) 26 26 = sp.bit := bits_encode_eq (by rw [Instr.operandBits]; omega)
  have haddr : bits (encode (.busrd cpu sp a)) 15 0 = a.toNat := bits_encode_eq (by rw [Instr.operandBits]; omega)
  simp [decodeWord, hop, decodeBusrd, reserved, hres, hdata, hcpu, hspace, haddr]

theorem decodeWord_encode_buswr (cpu : Cpu) (sp : Space) (a : Addr) (d : Byte) :
    decodeWord (encode (.buswr cpu sp a d)) = some (.buswr cpu sp a d) := by
  obtain ⟨-, hop⟩ := encodeOpcode (.buswr cpu sp a d)
  have hc := cpu.bit_lt
  have hs := sp.bit_lt
  have ha := a.isLt
  have hd := d.isLt
  simp only [Instr.opcode] at hop
  have hres : bits (encode (.buswr cpu sp a d)) 25 24 = 0 := bits_encode_eq (by rw [Instr.operandBits]; omega)
  have hdata : bits (encode (.buswr cpu sp a d)) 23 16 = d.toNat := bits_encode_eq (by rw [Instr.operandBits]; omega)
  have hcpu : bits (encode (.buswr cpu sp a d)) 27 27 = cpu.bit := bits_encode_eq (by rw [Instr.operandBits]; omega)
  have hspace : bits (encode (.buswr cpu sp a d)) 26 26 = sp.bit := bits_encode_eq (by rw [Instr.operandBits]; omega)
  have haddr : bits (encode (.buswr cpu sp a d)) 15 0 = a.toNat := bits_encode_eq (by rw [Instr.operandBits]; omega)
  simp [decodeWord, hop, decodeBuswr, reserved, hres, hdata, hcpu, hspace, haddr]

theorem decodeWord_encode_selbank (v : Byte) :
    decodeWord (encode (.selbank v)) = some (.selbank v) := by
  obtain ⟨-, hop⟩ := encodeOpcode (.selbank v)
  have hv := v.isLt
  simp only [Instr.opcode] at hop
  have hres : bits (encode (.selbank v)) 27 8 = 0 := bits_encode_eq (by rw [Instr.operandBits]; omega)
  have hval : bits (encode (.selbank v)) 7 0 = v.toNat := bits_encode_eq (by rw [Instr.operandBits]; omega)
  simp [decodeWord, hop, decodeSelbank, reserved, hres, hval]

theorem decodeWord_encode_decode (k : BitVec 3) (t : BitVec 12) (c : BitVec 11) (fx fy : Bool) :
    decodeWord (encode (.decode k t c fx fy)) = some (.decode k t c fx fy) := by
  obtain ⟨-, hop⟩ := encodeOpcode (.decode k t c fx fy)
  have hk := k.isLt
  have ht := t.isLt
  have hc := c.isLt
  have hx := fx.toNat_lt
  have hy := fy.toNat_lt
  simp only [Instr.opcode] at hop
  have hlayout : bits (encode (.decode k t c fx fy)) 25 23 = k.toNat := bits_encode_eq (by rw [Instr.operandBits]; omega)
  have htile : bits (encode (.decode k t c fx fy)) 11 0 = t.toNat := bits_encode_eq (by rw [Instr.operandBits]; omega)
  have hoff : bits (encode (.decode k t c fx fy)) 22 12 = c.toNat := bits_encode_eq (by rw [Instr.operandBits]; omega)
  have hflipX : bits (encode (.decode k t c fx fy)) 26 26 = fx.toNat := bits_encode_eq (by rw [Instr.operandBits]; omega)
  have hflipY : bits (encode (.decode k t c fx fy)) 27 27 = fy.toNat := bits_encode_eq (by rw [Instr.operandBits]; omega)
  simp [decodeWord, hop, decodeDecode, hlayout, htile, hoff, hflipX, hflipY]

theorem decodeWord_encode_markdirty (L : Layer) (i : BitVec 16) :
    decodeWord (encode (.markdirty L i)) = some (.markdirty L i) := by
  obtain ⟨-, hop⟩ := encodeOpcode (.markdirty L i)
  have hL := L.bit_lt
  have hi := i.isLt
  simp only [Instr.opcode] at hop
  have hlayer : bits (encode (.markdirty L i)) 27 26 = L.bit := bits_encode_eq (by rw [Instr.operandBits]; omega)
  have hres : bits (encode (.markdirty L i)) 25 16 = 0 := bits_encode_eq (by rw [Instr.operandBits]; omega)
  have hcell : bits (encode (.markdirty L i)) 15 0 = i.toNat := bits_encode_eq (by rw [Instr.operandBits]; omega)
  have hw : decodeWord (encode (.markdirty L i)) = decodeMarkdirty (encode (.markdirty L i)) := by
    simp only [decodeWord, hop]
  rw [hw, decodeMarkdirty, hlayer, layerOf_bit, hcell, hres, BitVec.ofNat_toNat, BitVec.setWidth_eq]
  rfl

theorem decodeWord_encode_flushdirty (L : Layer) :
    decodeWord (encode (.flushdirty L)) = some (.flushdirty L) := by
  obtain ⟨-, hop⟩ := encodeOpcode (.flushdirty L)
  have hL := L.bit_lt
  simp only [Instr.opcode] at hop
  have hlayer : bits (encode (.flushdirty L)) 27 26 = L.bit := bits_encode_eq (by rw [Instr.operandBits]; omega)
  have hres : bits (encode (.flushdirty L)) 25 16 = 0 := bits_encode_eq (by rw [Instr.operandBits]; omega)
  have hcell : bits (encode (.flushdirty L)) 15 0 = 0 := bits_encode_eq (by rw [Instr.operandBits]; omega)
  have hw : decodeWord (encode (.flushdirty L)) = decodeFlushdirty (encode (.flushdirty L)) := by
    simp only [decodeWord, hop]
  rw [hw, decodeFlushdirty, hlayer, layerOf_bit, hcell, hres]
  rfl

theorem decodeWord_encode_tick (q : Sequencer) :
    decodeWord (encode (.tick q)) = some (.tick q) := by
  obtain ⟨-, hop⟩ := encodeOpcode (.tick q)
  have hq := Sequencer.bit_lt q
  simp only [Instr.opcode] at hop
  have hres : bits (encode (.tick q)) 26 0 = 0 := bits_encode_eq (by rw [Instr.operandBits]; omega)
  have hseq : bits (encode (.tick q)) 27 27 = Sequencer.bit q := bits_encode_eq (by rw [Instr.operandBits]; omega)
  simp [decodeWord, hop, decodeTick, reserved, hres, hseq]

theorem decodeWord_encode_mbwr (v : Byte) :
    decodeWord (encode (.mbwr v)) = some (.mbwr v) := by
  obtain ⟨-, hop⟩ := encodeOpcode (.mbwr v)
  have hv := v.isLt
  simp only [Instr.opcode] at hop
  have hres : bits (encode (.mbwr v)) 27 8 = 0 := bits_encode_eq (by rw [Instr.operandBits]; omega)
  have hval : bits (encode (.mbwr v)) 7 0 = v.toNat := bits_encode_eq (by rw [Instr.operandBits]; omega)
  simp [decodeWord, hop, decodeMbwr, reserved, hres, hval]

theorem decodeWord_encode (i : Instr) : decodeWord (encode i) = some i := by
  cases i with
  | busrd cpu sp a => exact decodeWord_encode_busrd cpu sp a
  | buswr cpu sp a d => exact decodeWord_encode_buswr cpu sp a d
  | selbank v => exact decodeWord_encode_selbank v
  | decode k t c fx fy => exact decodeWord_encode_decode k t c fx fy
  | markdirty L i => exact decodeWord_encode_markdirty L i
  | flushdirty L => exact decodeWord_encode_flushdirty L
  | tick q => exact decodeWord_encode_tick q
  | mbwr v => exact decodeWord_encode_mbwr v
  | invalall | palload | render | mbrd | mbclr | vidstart | vidstop | reset => decide

/-! ### Encoding a decoded command: every format accounts for every bit of the word (30_encoding.md R306) -/

section
variable {w : Word} {i : Instr}

theorem bits_one_lt (w : Word) (k : Nat) : bits w k k < 2 := by simpa using bits_lt w k k

theorem encode_of_decodeBusrd (hop : bits w 31 28 = 0x1) (h : decodeBusrd w = some i) : encode i = w := by
  obtain ⟨hzero, rfl⟩ := reserved_eq_some_iff.mp h
  simp only [List.mem_cons, List.not_mem_nil, or_false, forall_eq_or_imp, forall_eq] at hzero
  refine encode_eq_of_fields hop ?_
  simp only [Instr.operandBits, bit_cpuOf (bits_one_lt w 27), bit_spaceOf (bits_one_lt w 26), toNat_ofNat_bits w 15 0]
  simp only [bits] at hzero ⊢
  omega

theorem encode_of_decodeBuswr (hop : bits w 31 28 = 0x2) (h : decodeBuswr w = some i) : encode i = w := by
  obtain ⟨hzero, rfl⟩ := reserved_eq_some_iff.mp h
  simp only [List.mem_cons, List.not_mem_nil, or_false, forall_eq] at hzero
  refine encode_eq_of_fields hop ?_
  simp only [Instr.operandBits, bit_cpuOf (bits_one_lt w 27), bit_spaceOf (bits_one_lt w 26),
    toNat_ofNat_bits w 15 0, toNat_ofNat_bits w 23 16]
  simp only [bits] at hzero ⊢
  omega

theorem encode_of_decodeSelbank (hop : bits w 31 28 = 0x3) (h : decodeSelbank w = some i) : encode i = w := by
  obtain ⟨hzero, rfl⟩ := reserved_eq_some_iff.mp h
  simp only [List.mem_cons, List.not_mem_nil, or_false, forall_eq] at hzero
  refine encode_eq_of_fields hop ?_
  simp only [Instr.operandBits, toNat_ofNat_bits w 7 0]
  simp only [bits] at hzero ⊢
  omega

theorem encode_of_decodeDecode (hop : bits w 31 28 = 0x4) (h : decodeDecode w = some i) : encode i = w := by
  obtain rfl := Option.some.inj h
  refine encode_eq_of_fields hop ?_
  simp only [Instr.operandBits, toNat_flag (bits_one_lt w 26), toNat_flag (bits_one_lt w 27), toNat_ofNat_bits w 25 23,
    toNat_ofNat_bits w 11 0, toNat_ofNat_bits w 22 12]
  simp only [bits]
  omega

theorem encode_of_decodeMarkdirty (hop : bits w 31 28 = 0x5) (h : decodeMarkdirty w = some i) : encode i = w := by
  unfold decodeMarkdirty at h
  cases hL : layerOf (bits w 27 26) with
  | none =>
    rw [hL] at h
    cases h
  | some L =>
    rw [hL] at h
    obtain ⟨hzero, rfl⟩ := reserved_eq_some_iff.mp h
    simp only [List.mem_cons, List.not_mem_nil, or_false, forall_eq] at hzero
    refine encode_eq_of_fields hop ?_
    simp only [Instr.operandBits, bit_of_layerOf hL, toNat_ofNat_bits w 15 0]
    simp only [bits] at hzero ⊢
    omega

theorem encode_of_decodeFlushdirty (hop : bits w 31 28 = 0x6) (h : decodeFlushdirty w = some i) : encode i = w := by
  unfold decodeFlushdirty at h
  cases hL : layerOf (bits w 27 26) with
  | none =>
    rw [hL] at h
    cases h
  | some L =>
    rw [hL] at h
    obtain ⟨hzero, rfl⟩ := reserved_eq_some_iff.mp h
    simp only [List.mem_cons, List.not_mem_nil, or_false, forall_eq_or_imp, forall_eq] at hzero
    refine encode_eq_of_fields hop ?_
    simp only [Instr.operandBits, bit_of_layerOf hL]
    simp only [bits] at hzero ⊢
    omega

theorem encode_of_decodeNoOperand {j : Instr} (hop : bits w 31 28 = j.opcode) (hj : j.operandBits = 0)
    (h : decodeNoOperand j w = some i) : encode i = w := by
  obtain ⟨hzero, rfl⟩ := reserved_eq_some_iff.mp h
  simp only [List.mem_cons, List.not_mem_nil, or_false, forall_eq] at hzero
  refine encode_eq_of_fields hop ?_
  simp only [bits] at hzero
  omega

theorem encode_of_decodeVideo (hop : bits w 31 28 = 0xE) (h : decodeVideo w = some i) : encode i = w := by
  obtain ⟨hzero, rfl⟩ := reserved_eq_some_iff.mp h
  simp only [List.mem_cons, List.not_mem_nil, or_false, forall_eq] at hzero
  have hstart := bits_one_lt w 0
  by_cases h1 : bits w 0 0 = 1
  · rw [if_pos h1]
    refine encode_eq_of_fields hop ?_
    simp only [Instr.operandBits]
    simp only [bits] at hzero h1
    omega
  · rw [if_neg h1]
    refine encode_eq_of_fields hop ?_
    simp only [Instr.operandBits]
    simp only [bits] at hzero h1 hstart
    omega

theorem encode_of_decodeTick (hop : bits w 31 28 = 0xA) (h : decodeTick w = some i) : encode i = w := by
  obtain ⟨hzero, rfl⟩ := reserved_eq_some_iff.mp h
  simp only [List.mem_cons, List.not_mem_nil, or_false, forall_eq] at hzero
  refine encode_eq_of_fields hop ?_
  simp only [Instr.operandBits, bit_seqOf (bits_one_lt w 27)]
  simp only [bits] at hzero ⊢
  omega

theorem encode_of_decodeMbwr (hop : bits w 31 28 = 0xB) (h : decodeMbwr w = some i) : encode i = w := by
  obtain ⟨hzero, rfl⟩ := reserved_eq_some_iff.mp h
  simp only [List.mem_cons, List.not_mem_nil, or_false, forall_eq] at hzero
  refine encode_eq_of_fields hop ?_
  simp only [Instr.operandBits, toNat_ofNat_bits w 7 0]
  simp only [bits] at hzero ⊢
  omega

/-- The command a word decodes to has that word as its own. -/
theorem encode_of_decodeWord (h : decodeWord w = some i) : encode i = w := by
  unfold decodeWord at h
  split at h
  next hop => exact encode_of_decodeBusrd hop h
  next hop => exact encode_of_decodeBuswr hop h
  next hop => exact encode_of_decodeSelbank hop h
  next hop => exact encode_of_decodeDecode hop h
  next hop => exact encode_of_decodeMarkdirty hop h
  next hop => exact encode_of_decodeFlushdirty hop h
  next hop => exact encode_of_decodeNoOperand (j := .invalall) hop rfl h
  next hop => exact encode_of_decodeNoOperand (j := .palload) hop rfl h
  next hop => exact encode_of_decodeNoOperand (j := .render) hop rfl h
  next hop => exact encode_of_decodeTick hop h
  next hop => exact encode_of_decodeMbwr hop h
  next hop => exact encode_of_decodeNoOperand (j := .mbrd) hop rfl h
  next hop => exact encode_of_decodeNoOperand (j := .mbclr) hop rfl h
  next hop => exact encode_of_decodeVideo hop h
  next hop => exact encode_of_decodeNoOperand (j := .reset) hop rfl h
  next => cases h

/-- A word decodes to a command exactly when it is the command's own word. -/
theorem decodeWord_eq_some_iff : decodeWord w = some i ↔ encode i = w :=
  ⟨encode_of_decodeWord, by rintro rfl; exact decodeWord_encode i⟩

theorem legalCommand_eq_some_iff {c : Config} :
    legalCommand c w = some i ↔ encode i = w ∧ i.wellFormed c = true := by
  rw [← decodeWord_eq_some_iff]
  unfold legalCommand
  cases hw : decodeWord w with
  | none => simp
  | some j =>
    simp only [Option.some.injEq]
    constructor
    · intro h
      split at h
      · next hj => obtain rfl := Option.some.inj h; exact ⟨rfl, hj⟩
      · cases h
    · rintro ⟨rfl, hj⟩
      rw [if_pos hj]

end

/-! ### The illegal words (30_encoding.md R305) -/

section
variable {c : Config} {w : Word}

theorem legalCommand_eq_none_of_reserved {fields : List Nat} {i : Instr} (hw : decodeWord w = reserved fields i)
    (hi : i.wellFormed c = true) : legalCommand c w = none ↔ ∃ f ∈ fields, f ≠ 0 := by
  rw [legalCommand_of_reserved hw hi, reserved_eq_none_iff]

/-- A layout number is all that R305 says of DECODE. -/
theorem legalCommand_decode_eq_none_iff (hop : bits w 31 28 = 0x4) :
    legalCommand c w = none ↔ c.layouts.length ≤ bits w 25 23 := by
  have hk : (BitVec.ofNat 3 (bits w 25 23)).toNat = bits w 25 23 := toNat_ofNat_bits w 25 23
  have hw : decodeWord w = decodeDecode w := by simp only [decodeWord, hop]
  unfold legalCommand
  rw [hw]
  simp [decodeDecode, Instr.wellFormed, hk]

theorem legalCommand_flushdirty_eq_none_iff (hop : bits w 31 28 = 0x6) :
    legalCommand c w = none ↔ 2 ≤ bits w 27 26 ∨ bits w 25 16 ≠ 0 ∨ bits w 15 0 ≠ 0 := by
  rw [← layerOf_eq_none_iff]
  cases hL : layerOf (bits w 27 26) with
  | none =>
    have hw : decodeWord w = none := by simp only [decodeWord, hop, decodeFlushdirty, hL]
    simp [legalCommand, hw]
  | some L =>
    have hw : decodeWord w = reserved [bits w 25 16, bits w 15 0] (.flushdirty L) := by
      simp only [decodeWord, hop, decodeFlushdirty, hL]
    simp [legalCommand_eq_none_of_reserved hw rfl]

end

end Sys2Proof

namespace Sys2Proof.Machine

/-- The illegal words are those R305 lists, format by format. -/
theorem legalCommand_eq_none_iff (c : Config) (w : Word) : legalCommand c w = none ↔ IllegalWord c w := by
  unfold IllegalWord
  split
  next hop => simp [legalCommand, decodeWord, hop]
  next hop =>
    have hw : decodeWord w = decodeBusrd w := by simp only [decodeWord, hop]
    simp [legalCommand_eq_none_of_reserved hw rfl]
  next hop =>
    have hw : decodeWord w = decodeBuswr w := by simp only [decodeWord, hop]
    simp [legalCommand_eq_none_of_reserved hw rfl]
  next hop =>
    have hw : decodeWord w = decodeSelbank w := by simp only [decodeWord, hop]
    simp [legalCommand_eq_none_of_reserved hw rfl]
  next hop => exact legalCommand_decode_eq_none_iff hop
  next hop => rw [legalCommand_of_opcode_markdirty hop, decodeMarkdirty_eq_none_iff]
  next hop => exact legalCommand_flushdirty_eq_none_iff hop
  next hop =>
    have hw : decodeWord w = decodeTick w := by simp only [decodeWord, hop]
    simp [legalCommand_eq_none_of_reserved hw rfl]
  next hop =>
    have hw : decodeWord w = decodeMbwr w := by simp only [decodeWord, hop]
    simp [legalCommand_eq_none_of_reserved hw rfl]
  next hop =>
    have hw : decodeWord w = decodeVideo w := by simp only [decodeWord, hop]
    have hwf : (if bits w 0 0 = 1 then Instr.vidstart else .vidstop).wellFormed c = true := by split <;> rfl
    simp [legalCommand_eq_none_of_reserved hw hwf]
  next h0 h1 h2 h3 h4 h5 h6 hA hB hE =>
    have hlt : bits w 31 28 < 16 := bits_lt w 31 28
    have hop : bits w 31 28 = 0x7 ∨ bits w 31 28 = 0x8 ∨ bits w 31 28 = 0x9 ∨ bits w 31 28 = 0xC ∨
        bits w 31 28 = 0xD ∨ bits w 31 28 = 0xF := by grind
    have hw : ∃ i, decodeWord w = decodeNoOperand i w ∧ i.wellFormed c = true := by
      obtain hop | hop | hop | hop | hop | hop := hop
      · exact ⟨.invalall, by simp only [decodeWord, hop], rfl⟩
      · exact ⟨.palload, by simp only [decodeWord, hop], rfl⟩
      · exact ⟨.render, by simp only [decodeWord, hop], rfl⟩
      · exact ⟨.mbrd, by simp only [decodeWord, hop], rfl⟩
      · exact ⟨.mbclr, by simp only [decodeWord, hop], rfl⟩
      · exact ⟨.reset, by simp only [decodeWord, hop], rfl⟩
    obtain ⟨i, hw, hi⟩ := hw
    simp [legalCommand_eq_none_of_reserved hw hi]

/-- Settles O1: each format reads back the fields the command's operands were put in. -/
theorem decodeEncodeRoundTrip : Obligations.DecodeEncodeRoundTrip := decodeWord_encode

/-- Settles O2: the command a word decodes to has that word as its own, so no second word decodes to it. -/
theorem legalWordsDecodeUniquely : Obligations.LegalWordsDecodeUniquely := by
  intro c w
  constructor
  · cases h : legalCommand c w with
    | none => exact .inl rfl
    | some i => exact .inr ⟨i, rfl, fun j hj => (Option.some.inj hj).symm⟩
  · intro i hi
    obtain ⟨henc, hwf⟩ := legalCommand_eq_some_iff.mp hi
    refine ⟨henc, hwf, fun w' hi' => ?_⟩
    obtain ⟨henc', -⟩ := legalCommand_eq_some_iff.mp hi'
    exact henc'.symm.trans henc

/-- Settles O3: the illegal words format by format, and the step on one by what `perform` runs on a machine that is
ready. -/
theorem illegalWordsRaiseIllegalCommand : Obligations.IllegalWordsRaiseIllegalCommand := by
  refine ⟨legalCommand_eq_none_iff, fun s w rest hs hw hill => ?_⟩
  calc step s
      = perform { s with commands := rest } (raiseFault .illegalCommand) :=
        step_illegal hw ((legalCommand_eq_none_iff s.cfg w).mpr hill)
    _ = raiseFault .illegalCommand { s with commands := rest } :=
        perform_ready (s := { s with commands := rest }) hs.cfgValid hs.noFault _

/-- Settles O4: six fixed words, read by evaluation. -/
theorem exampleWordsDecode : Obligations.ExampleWordsDecode := by
  unfold Obligations.ExampleWordsDecode
  decide

end Sys2Proof.Machine
end

section
/-! SUPPORT. What each command can change: one frame per command, from which every statement about all commands is
derived. A frame covers the halted machine too, which changes only its result (60_exceptions.md R810). -/

namespace Sys2Proof.Machine

section
variable {s t : State}

/-! ### Performing -/

theorem State.Inv.ready (h : s.Inv) (hf : s.fault = none) : s.Ready := ⟨h.cfgValid, hf⟩

/-- All that a command which always ends can do. -/
theorem exec_cases_of_finish {i : Instr} {r : State → CmdResult} {f : State → State}
    (heq : exec i s = perform s fun s => finish (r s) (f s)) (h : exec i s = .next t) :
    (s.fault = none ∧ t = { f s with result := some (r s) }) ∨
      (s.fault ≠ none ∧ t = { s with result := some .halted }) := by
  obtain ⟨-, ⟨hf, hrun⟩ | hhalt⟩ := perform_cases (heq.symm.trans h)
  · exact .inl ⟨hf, finish_eq_next hrun⟩
  · exact .inr hhalt

/-- A command that always ends, on a machine that performs commands. -/
theorem exec_ready_of_finish {i : Instr} {r : State → CmdResult} {f : State → State}
    (heq : exec i s = perform s fun s => finish (r s) (f s)) (hs : s.Ready) :
    exec i s = .next { f s with result := some (r s) } := by
  rw [heq, perform_ready hs.cfgValid hs.noFault]
  rfl

/-! ### The two commands that need the video started (60_exceptions.md R802) -/

theorem exec_flushdirty_stopped (hs : s.Ready) (hv : s.video = none) (L : Layer) :
    exec (.flushdirty L) s = .next { s with fault := some .videoNotStarted, result := some .fault } := by
  rw [exec_flushdirty, perform_ready hs.cfgValid hs.noFault]
  split
  · rfl
  · next hw => rw [hv] at hw; cases hw

theorem exec_flushdirty_started (hs : s.Ready) {v : VideoState} (hv : s.video = some v) (L : Layer) :
    exec (.flushdirty L) s = .next { s with video := some (s.flushLayer L v), result := some .ok } := by
  rw [exec_flushdirty, perform_ready hs.cfgValid hs.noFault, hv]
  rfl

theorem exec_render_stopped (hs : s.Ready) (hv : s.video = none) :
    exec .render s = .next { s with fault := some .videoNotStarted, result := some .fault } := by
  rw [exec_render, perform_ready hs.cfgValid hs.noFault]
  split
  · rfl
  · next hw => rw [hv] at hw; cases hw

theorem exec_render_started (hs : s.Ready) {v : VideoState} (hv : s.video = some v) :
    exec .render s = .next { s.renderFrame v with result := some .ok } := by
  rw [exec_render, perform_ready hs.cfgValid hs.noFault, hv]
  rfl

theorem exec_decode_ready (hs : s.Ready) (k : BitVec 3) (tile : BitVec 12) (c : BitVec 11) (fx fy : Bool) :
    exec (.decode k tile c fx fy) s =
      if k.toNat < s.cfg.layouts.length then
        .next { s with result := some (.block (decodeTile s.cfg k.toNat tile.toNat c.toNat fx fy)) }
      else .next { s with fault := some .illegalCommand, result := some .fault } := by
  rw [exec_decode, perform_ready hs.cfgValid hs.noFault]
  simp only [Instr.wellFormed, decide_eq_true_eq]
  rfl

/-- After a fault, whatever the command, only the result changes (60_exceptions.md R810). -/
theorem exec_halted {i : Instr} (hf : s.fault ≠ none) (h : exec i s = .next t) :
    t = { s with result := some .halted } := by
  obtain ⟨body, hbody⟩ := exec_perform i
  obtain ⟨-, ⟨hnone, -⟩ | ⟨-, heq⟩⟩ := perform_cases ((hbody s).symm.trans h)
  · exact absurd hnone hf
  · exact heq

/-- No command is performed on a configuration that fails a construction check (60_exceptions.md section 4). -/
theorem exec_cfgValid {i : Instr} (h : exec i s = .next t) : s.cfg.valid = true := by
  obtain ⟨body, hbody⟩ := exec_perform i
  exact (perform_cases ((hbody s).symm.trans h)).1

/-! ### The events an operation adds -/

@[simp] theorem intReqs_nil : intReqs [] = [] := rfl

/-- A bank select adds at most the ProgramBank event (41_bank.md R450, R451). -/
theorem State.selectBank_events (s : State) (value : Byte) :
    ∃ es, (es = [] ∨ es = [.programBank (bankTarget s.cfg value)]) ∧ (s.selectBank value).events = s.events ++ es := by
  unfold State.selectBank State.equalSelect
  dsimp only
  split
  · exact ⟨_, .inr rfl, rfl⟩
  · split
    · exact ⟨_, .inr rfl, rfl⟩
    · exact ⟨[], .inl rfl, (List.append_nil _).symm⟩
    · refine ⟨_, ?_, rfl⟩
      split
      · exact .inr rfl
      · exact .inl rfl

theorem State.selectBank_events_noInt (s : State) (value : Byte) :
    ∃ es, intReqs es = [] ∧ (s.selectBank value).events = s.events ++ es := by
  obtain ⟨es, rfl | rfl, h⟩ := s.selectBank_events value
  · exact ⟨_, rfl, h⟩
  · exact ⟨_, rfl, h⟩

/-! ### The frame of each command -/

theorem State.drawInput_frame (s : State) (arg : Nat) :
    ∃ inputs draws, (s.drawInput arg).2 = { s with inputs := inputs, draws := draws } := by
  unfold State.drawInput
  split
  · exact ⟨_, _, rfl⟩
  · exact ⟨_, _, rfl⟩

theorem State.readHandler_frame (s : State) (hd : ReadHandler) (arg : Nat) :
    ∃ inputs draws, (s.readHandler hd arg).2 = { s with inputs := inputs, draws := draws } := by
  cases hd with
  | input => exact s.drawInput_frame arg
  | openBus | soundCommand => exact ⟨_, _, rfl⟩

theorem exec_busrd_frame {cpu : Cpu} {sp : Space} {a : Addr} (h : exec (.busrd cpu sp a) s = .next t) :
    ∃ inputs draws result, t = { s with inputs := inputs, draws := draws, result := result } := by
  obtain ⟨-, ⟨-, hrun⟩ | ⟨-, rfl⟩⟩ := perform_cases ((exec_busrd s cpu sp a).symm.trans h)
  · obtain ⟨-, rfl⟩ | ⟨r, l, -, -, rfl⟩ | ⟨r, rh, wh, arg, hd, -, -, -, rfl⟩ := State.memRead_cases hrun
    · exact ⟨_, _, _, rfl⟩
    · exact ⟨_, _, _, rfl⟩
    · obtain ⟨inputs, draws, heq⟩ := s.readHandler_frame hd arg
      exact ⟨inputs, draws, _, by rw [heq]⟩
  · exact ⟨_, _, _, rfl⟩

theorem exec_selbank_frame {v : Byte} (h : exec (.selbank v) s = .next t) :
    ∃ bank es draws result, (bank = s.bank ∨ bank = bankTarget s.cfg v) ∧ intReqs es = [] ∧
      t = { s with bank := bank, events := s.events ++ es, draws := draws, result := result } := by
  obtain ⟨-, rfl⟩ | ⟨-, rfl⟩ := exec_cases_of_finish (exec_selbank s v) h
  · obtain ⟨es, hes, hev⟩ := s.selectBank_events_noInt v
    exact ⟨_, es, _, _, .inr rfl, hes, by rw [s.selectBank_eq v, hev]⟩
  · exact ⟨_, [], _, _, .inl rfl, rfl, by rw [List.append_nil]⟩

theorem exec_decode_frame {k : BitVec 3} {tile : BitVec 12} {c : BitVec 11} {fx fy : Bool}
    (h : exec (.decode k tile c fx fy) s = .next t) :
    ∃ fault result, (fault = s.fault ∨ s.fault = none ∧ s.cfg.layouts.length ≤ k.toNat ∧ result = some .fault) ∧
      t = { s with fault := fault, result := result } := by
  by_cases hf : s.fault = none
  · rw [exec_decode_ready ⟨exec_cfgValid h, hf⟩] at h
    split at h
    · cases h
      exact ⟨_, _, .inl rfl, rfl⟩
    · next hk =>
      cases h
      exact ⟨_, _, .inr ⟨hf, Nat.le_of_not_lt hk, rfl⟩, rfl⟩
  · rw [exec_halted hf h]
    exact ⟨_, _, .inl rfl, rfl⟩

theorem map_dirty_self (o : Option VideoState) : o = o.map fun v => { v with dirty := v.dirty } := by
  cases o <;> rfl

theorem exec_markdirty_frame {L : Layer} {i : BitVec 16} (h : exec (.markdirty L i) s = .next t) :
    ∃ (d : VideoState → Layered (List Bool)), ∃ result,
      t = { s with video := s.video.map fun v => { v with dirty := d v }, result := result } := by
  obtain ⟨-, rfl⟩ | ⟨-, rfl⟩ := exec_cases_of_finish (exec_markdirty s L i) h
  · exact ⟨_, _, rfl⟩
  · exact ⟨fun v => v.dirty, _, by rw [← map_dirty_self]⟩

theorem exec_invalall_frame (h : exec .invalall s = .next t) :
    ∃ (d : VideoState → Layered (List Bool)), ∃ result,
      t = { s with video := s.video.map fun v => { v with dirty := d v }, result := result } := by
  obtain ⟨-, rfl⟩ | ⟨-, rfl⟩ := exec_cases_of_finish (exec_invalall s) h
  · exact ⟨_, _, rfl⟩
  · exact ⟨fun v => v.dirty, _, by rw [← map_dirty_self]⟩

theorem exec_palload_frame (h : exec .palload s = .next t) :
    ∃ palette table loaded, ∃ (d : VideoState → Layered (List Bool)), ∃ result, t = { s with
      palette := palette
      colorIndexTable := table
      paletteLoaded := loaded
      video := s.video.map fun v => { v with dirty := d v }
      result := result } := by
  obtain ⟨-, rfl⟩ | ⟨-, rfl⟩ := exec_cases_of_finish (exec_palload s) h
  · exact ⟨_, _, _, _, _, rfl⟩
  · exact ⟨_, _, _, fun v => v.dirty, _, by rw [← map_dirty_self]⟩

theorem exec_tick_frame {q : Sequencer} (h : exec (.tick q) s = .next t) :
    ∃ es result, (es = [] ∨ s.seqEnable q = true ∧ es = [.intReq (Sequencer.target q) (seqKind s.cfg q)]) ∧
      t = { s with events := s.events ++ es, result := result } := by
  obtain ⟨-, rfl⟩ | ⟨-, rfl⟩ := exec_cases_of_finish (exec_tick s q) h
  · unfold State.tick State.seqState
    cases hq : s.seqEnable q with
    | true => exact ⟨_, _, .inr ⟨rfl, rfl⟩, rfl⟩
    | false => exact ⟨[], _, .inl rfl, by rw [List.append_nil]; rfl⟩
  · exact ⟨[], _, .inl rfl, by rw [List.append_nil]⟩

/-- The mailbox write as one update (46_mailbox.md R750, R751). -/
theorem State.writeCommand_eq (s : State) (v : Byte) :
    s.writeCommand v = { s with
      mbLatch := v
      mbPending := true
      events := s.events ++ (if s.cfg.ints.mailboxRaisesInt then [.intReq .sound s.cfg.ints.mailboxIntKind] else []) } := by
  unfold State.writeCommand
  cases s.cfg.ints.mailboxRaisesInt with
  | true => rfl
  | false => simp

theorem exec_mbwr_frame {v : Byte} (h : exec (.mbwr v) s = .next t) :
    ∃ latch pending es result,
      (es = [] ∨ s.cfg.ints.mailboxRaisesInt = true ∧ es = [.intReq .sound s.cfg.ints.mailboxIntKind]) ∧
      t = { s with mbLatch := latch, mbPending := pending, events := s.events ++ es, result := result } := by
  obtain ⟨-, rfl⟩ | ⟨-, rfl⟩ := exec_cases_of_finish (exec_mbwr s v) h
  · rw [s.writeCommand_eq v]
    refine ⟨_, _, _, _, ?_, rfl⟩
    split
    · next hraise => exact .inr ⟨hraise, rfl⟩
    · exact .inl rfl
  · exact ⟨_, _, [], _, .inl rfl, by rw [List.append_nil]⟩

theorem exec_mbrd_frame (h : exec .mbrd s = .next t) : ∃ result, t = { s with result := result } := by
  obtain ⟨-, rfl⟩ | ⟨-, rfl⟩ := exec_cases_of_finish (exec_mbrd s) h
  · exact ⟨_, rfl⟩
  · exact ⟨_, rfl⟩

theorem exec_mbclr_frame (h : exec .mbclr s = .next t) :
    ∃ pending result, t = { s with mbPending := pending, result := result } := by
  obtain ⟨-, rfl⟩ | ⟨-, rfl⟩ := exec_cases_of_finish (exec_mbclr s) h
  · exact ⟨_, _, rfl⟩
  · exact ⟨_, _, rfl⟩

theorem State.drawAlloc_frame (s : State) :
    ∃ allocs draws, s.drawAlloc.2 = { s with allocs := allocs, draws := draws } := by
  unfold State.drawAlloc
  split
  · exact ⟨_, _, rfl⟩
  · exact ⟨_, _, rfl⟩

theorem exec_vidstart_frame (h : exec .vidstart s = .next t) :
    ∃ video allocs draws result, (video = none ∨ video = s.video ∨ ∃ n, video = some (newVideo s.cfg n)) ∧
      t = { s with video := video, allocs := allocs, draws := draws, result := result } := by
  obtain ⟨-, rfl⟩ | ⟨-, rfl⟩ := exec_cases_of_finish (exec_vidstart s) h
  · obtain ⟨allocs, draws, heq⟩ := s.videoStop.drawAlloc_frame
    rw [heq]
    refine ⟨_, _, _, _, ?_, rfl⟩
    cases s.videoStop.drawAlloc.1 with
    | true => exact .inr (.inr ⟨_, rfl⟩)
    | false => exact .inl rfl
  · exact ⟨_, _, _, _, .inr (.inl rfl), rfl⟩

theorem exec_vidstop_frame (h : exec .vidstop s = .next t) :
    ∃ video result, (video = none ∨ video = s.video) ∧ t = { s with video := video, result := result } := by
  obtain ⟨-, rfl⟩ | ⟨-, rfl⟩ := exec_cases_of_finish (exec_vidstop s) h
  · exact ⟨_, _, .inl rfl, rfl⟩
  · exact ⟨_, _, .inr rfl, rfl⟩

/-- The registers RESET and BUSWR can write and no other command can (10_state.md R110 to R118). -/
structure Registers where
  bank : Nat
  scrollXLo : Byte
  scrollXHi : BitVec 1
  scrollYLo : Byte
  scrollYHi : BitVec 1
  bgEnable : Bool
  overdraw : Bool
  seqEnableMain : Bool
  seqEnableSound : Bool
  mbLatch : Byte
  mbPending : Bool

/-- The state with these registers. -/
def State.withRegisters (s : State) (g : Registers) : State :=
  { s with
    bank := g.bank
    scrollXLo := g.scrollXLo
    scrollXHi := g.scrollXHi
    scrollYLo := g.scrollYLo
    scrollYHi := g.scrollYHi
    bgEnable := g.bgEnable
    overdraw := g.overdraw
    seqEnableMain := g.seqEnableMain
    seqEnableSound := g.seqEnableSound
    mbLatch := g.mbLatch
    mbPending := g.mbPending }

/-- The registers a state holds. -/
def State.registers (s : State) : Registers where
  bank := s.bank
  scrollXLo := s.scrollXLo
  scrollXHi := s.scrollXHi
  scrollYLo := s.scrollYLo
  scrollYHi := s.scrollYHi
  bgEnable := s.bgEnable
  overdraw := s.overdraw
  seqEnableMain := s.seqEnableMain
  seqEnableSound := s.seqEnableSound
  mbLatch := s.mbLatch
  mbPending := s.mbPending

theorem exec_reset_frame (h : exec .reset s = .next t) :
    ∃ g es, ∃ (d : VideoState → Layered (List Bool)), ∃ draws result,
      (g.bank = s.bank ∨ g.bank = s.cfg.bank.bankResetValue) ∧ intReqs es = [] ∧
      t = { s.withRegisters g with
        events := s.events ++ es
        video := s.video.map fun v => { v with dirty := d v }
        draws := draws
        result := result } := by
  obtain ⟨-, rfl⟩ | ⟨-, rfl⟩ := exec_cases_of_finish (exec_reset s) h
  · exact ⟨s.resetMachine.registers, [.programBank _], _, _, _, .inr rfl, rfl, rfl⟩
  · refine ⟨s.registers, [], fun v => v.dirty, s.draws, some .halted, .inl rfl, rfl, ?_⟩
    rw [List.append_nil, ← map_dirty_self]
    rfl

/-- All that FLUSHDIRTY can do: nothing but a fault mark and a result, or the flush of its layer. -/
theorem exec_flushdirty_frame {L : Layer} (h : exec (.flushdirty L) s = .next t) :
    (∃ fault result, (fault = s.fault ∨ s.fault = none ∧ s.video = none ∧ result = some .fault) ∧
      t = { s with fault := fault, result := result }) ∨
    ∃ v, s.video = some v ∧ t = { s with video := some (s.flushLayer L v), result := some .ok } := by
  by_cases hf : s.fault = none
  · have hs : s.Ready := ⟨exec_cfgValid h, hf⟩
    cases hv : s.video with
    | none =>
      cases h.symm.trans (exec_flushdirty_stopped hs hv L)
      exact .inl ⟨_, _, .inr ⟨hf, rfl, rfl⟩, by rw [hv]⟩
    | some v =>
      cases h.symm.trans (exec_flushdirty_started hs hv L)
      exact .inr ⟨v, rfl, rfl⟩
  · exact .inl ⟨_, _, .inl rfl, exec_halted hf h⟩

/-- All that RENDER can do: nothing but a fault mark and a result, or one frame. -/
theorem exec_render_frame (h : exec .render s = .next t) :
    (∃ fault result, (fault = s.fault ∨ s.fault = none ∧ s.video = none ∧ result = some .fault) ∧
      t = { s with fault := fault, result := result }) ∨
    ∃ v, s.video = some v ∧ t = { s.renderFrame v with result := some .ok } := by
  by_cases hf : s.fault = none
  · have hs : s.Ready := ⟨exec_cfgValid h, hf⟩
    cases hv : s.video with
    | none =>
      cases h.symm.trans (exec_render_stopped hs hv)
      exact .inl ⟨_, _, .inr ⟨hf, rfl, rfl⟩, by rw [hv]⟩
    | some v =>
      cases h.symm.trans (exec_render_started hs hv)
      exact .inr ⟨v, rfl, rfl⟩
  · exact .inl ⟨_, _, .inl rfl, exec_halted hf h⟩

/-! ### The frame of BUSWR -/

/-- The buffers `o'` are those of `o` but for the flags and the accumulation buffer (10_state.md R141, R142). -/
def KeepsSurfaces (o o' : Option VideoState) : Prop :=
  ∀ w, o' = some w → ∃ v, o = some v ∧ w.out = v.out ∧ w.cache = v.cache

theorem KeepsSurfaces.refl (o : Option VideoState) : KeepsSurfaces o o := fun w h => ⟨w, h, rfl, rfl⟩

theorem keepsSurfaces_map {f : VideoState → VideoState} (o : Option VideoState)
    (hf : ∀ v, (f v).out = v.out ∧ (f v).cache = v.cache) : KeepsSurfaces o (o.map f) := by
  intro w h
  obtain ⟨v, hv, rfl⟩ := Option.map_eq_some_iff.mp h
  exact ⟨v, hv, hf v⟩

/-- The events a write handler adds: the mailbox request for W_SOUND_COMMAND when configured, else no request
(60_exceptions.md R860). -/
def HandlerEvents (s : State) (hd : WriteHandler) (es : List Event) : Prop :=
  intReqs es = [] ∨
    hd = .soundCommand ∧ s.cfg.ints.mailboxRaisesInt = true ∧ es = [.intReq .sound s.cfg.ints.mailboxIntKind]

/-- A write handler writes registers, video buffers, events and the draw number (30_encoding.md R320). -/
theorem State.writeHandler_frame (s : State) (hd : WriteHandler) (arg : Nat) (d : Byte) :
    s.writeHandler hd arg d = { s.withRegisters (s.writeHandler hd arg d).registers with
      events := (s.writeHandler hd arg d).events
      video := (s.writeHandler hd arg d).video
      draws := (s.writeHandler hd arg d).draws } := by
  cases hd with
  | bankSelect =>
    unfold State.writeHandler State.wBankSelect
    rw [s.selectBank_eq d]
    rfl
  | soundCommand =>
    unfold State.writeHandler State.wSoundCommand
    rw [s.writeCommand_eq d]
    rfl
  | _ => rfl

theorem State.writeHandler_events (s : State) (hd : WriteHandler) (arg : Nat) (d : Byte) :
    ∃ es, HandlerEvents s hd es ∧ (s.writeHandler hd arg d).events = s.events ++ es := by
  cases hd with
  | bankSelect =>
    obtain ⟨es, hes, hev⟩ := s.selectBank_events_noInt d
    exact ⟨es, .inl hes, hev⟩
  | soundCommand =>
    refine ⟨_, ?_, s.writeCommand_events d⟩
    split
    · next hraise => exact .inr ⟨rfl, hraise, rfl⟩
    · exact .inl rfl
  | sndchipControl | sndchipData => exact ⟨_, .inl rfl, rfl⟩
  | _ => exact ⟨[], .inl rfl, (List.append_nil _).symm⟩

/-- W_OVERDRAW may clear the accumulation buffer; no other handler touches the buffers (40_dispatch.md R437). -/
theorem State.writeHandler_keepsSurfaces (s : State) (hd : WriteHandler) (arg : Nat) (d : Byte) :
    KeepsSurfaces s.video (s.writeHandler hd arg d).video := by
  by_cases h : hd = .overdraw
  · subst h
    change KeepsSurfaces s.video (ite _ _ _)
    split
    · exact keepsSurfaces_map _ fun v => ⟨rfl, rfl⟩
    · exact KeepsSurfaces.refl _
  · rw [State.writeHandler_video h]
    exact KeepsSurfaces.refl _

theorem State.writeHandler_bank (s : State) (hd : WriteHandler) (arg : Nat) (d : Byte) :
    (s.writeHandler hd arg d).bank = s.bank ∨ (s.writeHandler hd arg d).bank = bankTarget s.cfg d := by
  cases hd with
  | bankSelect => exact .inr (s.selectBank_bank d)
  | soundCommand => exact .inl (s.writeCommand_bank d)
  | _ => exact .inl rfl

theorem State.writeHandler_mbLatch (s : State) {hd : WriteHandler} (h : hd ≠ .soundCommand) (arg : Nat) (d : Byte) :
    (s.writeHandler hd arg d).mbLatch = s.mbLatch := by
  cases hd with
  | bankSelect => exact s.selectBank_mbLatch d
  | soundCommand => exact absurd rfl h
  | _ => rfl

theorem State.writeLoc_keepsSurfaces (s : State) (l : Loc) (v : Byte) :
    KeepsSurfaces s.video (s.writeLoc l v).video := by
  cases l with
  | tile L p i => exact keepsSurfaces_map _ fun v => ⟨rfl, rfl⟩
  | rom | ram | sprite => exact KeepsSurfaces.refl _

/-- All that BUSWR can write: the registers, the memories, the flags and the accumulation buffer, and events. The latch
and a request come only from a register range of W_SOUND_COMMAND. -/
theorem exec_buswr_frame {cpu : Cpu} {sp : Space} {a : Addr} {d : Byte} (h : exec (.buswr cpu sp a d) s = .next t) :
    ∃ g ram vram sprram video es draws result,
      t = { s.withRegisters g with
        ram := ram
        vram := vram
        sprram := sprram
        video := video
        events := s.events ++ es
        draws := draws
        result := result } ∧
      KeepsSurfaces s.video video ∧
      ((g.mbLatch = s.mbLatch ∧ intReqs es = []) ∨
        (∃ r rh wh arg, findRange s.cfg cpu sp a = some r ∧ r.kind = .reg rh wh arg ∧
          writeHandlerOf wh = some .soundCommand) ∧ HandlerEvents s .soundCommand es) := by
  obtain ⟨-, ⟨-, hrun⟩ | ⟨-, rfl⟩⟩ := perform_cases ((exec_buswr s cpu sp a d).symm.trans h)
  · obtain ⟨-, rfl⟩ | ⟨r, l, -, -, rfl⟩ | ⟨r, rh, wh, arg, hd, hf, hk, hh, rfl⟩ := State.memWrite_cases hrun
    · exact ⟨s.registers, s.ram, s.vram, s.sprram, s.video, [], s.draws, some .ok, by rw [List.append_nil]; rfl,
        KeepsSurfaces.refl _, .inl ⟨rfl, rfl⟩⟩
    · refine ⟨s.registers, (s.writeLoc l d).ram, (s.writeLoc l d).vram, (s.writeLoc l d).sprram,
        (s.writeLoc l d).video, [], s.draws, some .ok, ?_, s.writeLoc_keepsSurfaces l d, .inl ⟨rfl, rfl⟩⟩
      rw [List.append_nil, s.writeLoc_frame l d]
      rfl
    · obtain ⟨es, hes, hev⟩ := s.writeHandler_events hd arg d
      refine ⟨(s.writeHandler hd arg d).registers, s.ram, s.vram, s.sprram, (s.writeHandler hd arg d).video, es,
        (s.writeHandler hd arg d).draws, some .ok, ?_, s.writeHandler_keepsSurfaces hd arg d, ?_⟩
      · rw [← hev, s.writeHandler_frame hd arg d]
        rfl
      by_cases hc : hd = .soundCommand
      · subst hc
        exact .inr ⟨⟨r, rh, wh, arg, hf, hk, hh⟩, hes⟩
      · exact .inl ⟨s.writeHandler_mbLatch hc arg d, hes.resolve_right fun hsound => hc hsound.1⟩
  · exact ⟨s.registers, s.ram, s.vram, s.sprram, s.video, [], s.draws, some .halted, by rw [List.append_nil]; rfl,
      KeepsSurfaces.refl _, .inl ⟨rfl, rfl⟩⟩

end

end Sys2Proof.Machine
end

section
/-! SUPPORT. The statements about every command and every step that follow from the frames: faults (60_exceptions.md),
who writes what (10_state.md), and the event list. O5 to O8, O14, O16, O17 and O60. -/

namespace Sys2Proof.Machine

section
variable {i : Instr} {s t : State}

/-! ### Faults -/

/-- A command faults only as DECODE of a missing layout or as FLUSHDIRTY or RENDER with the video stopped, and the
fault changes nothing but the mark and the result (60_exceptions.md R801, R802, R810). -/
theorem exec_fault_cases (h : exec i s = .next t) :
    t.fault = s.fault ∨ s.fault = none ∧ (∃ r, t = { s with fault := r, result := some .fault }) ∧
      ((∃ k tile c fx fy, i = .decode k tile c fx fy ∧ s.cfg.layouts.length ≤ k.toNat) ∨
        (∃ L, i = .flushdirty L) ∨ i = .render) := by
  cases i with
  | busrd cpu sp a => obtain ⟨_, _, _, rfl⟩ := exec_busrd_frame h; exact .inl rfl
  | buswr cpu sp a d => obtain ⟨_, _, _, _, _, _, _, _, rfl, -⟩ := exec_buswr_frame h; exact .inl rfl
  | selbank v => obtain ⟨_, _, _, _, -, -, rfl⟩ := exec_selbank_frame h; exact .inl rfl
  | decode k tile c fx fy =>
    obtain ⟨fault, result, hfault | ⟨hf, hk, rfl⟩, rfl⟩ := exec_decode_frame h
    · exact .inl hfault
    · exact .inr ⟨hf, ⟨fault, rfl⟩, .inl ⟨k, tile, c, fx, fy, rfl, hk⟩⟩
  | markdirty L i => obtain ⟨_, _, rfl⟩ := exec_markdirty_frame h; exact .inl rfl
  | flushdirty L =>
    obtain ⟨fault, result, hfault | ⟨hf, -, rfl⟩, rfl⟩ | ⟨v, -, rfl⟩ := exec_flushdirty_frame h
    · exact .inl hfault
    · exact .inr ⟨hf, ⟨fault, rfl⟩, .inr (.inl ⟨L, rfl⟩)⟩
    · exact .inl rfl
  | invalall => obtain ⟨_, _, rfl⟩ := exec_invalall_frame h; exact .inl rfl
  | palload => obtain ⟨_, _, _, _, _, rfl⟩ := exec_palload_frame h; exact .inl rfl
  | render =>
    obtain ⟨fault, result, hfault | ⟨hf, -, rfl⟩, rfl⟩ | ⟨v, -, rfl⟩ := exec_render_frame h
    · exact .inl hfault
    · exact .inr ⟨hf, ⟨fault, rfl⟩, .inr (.inr rfl)⟩
    · exact .inl rfl
  | tick q => obtain ⟨_, _, -, rfl⟩ := exec_tick_frame h; exact .inl rfl
  | mbwr v => obtain ⟨_, _, _, _, -, rfl⟩ := exec_mbwr_frame h; exact .inl rfl
  | mbrd => obtain ⟨_, rfl⟩ := exec_mbrd_frame h; exact .inl rfl
  | mbclr => obtain ⟨_, _, rfl⟩ := exec_mbclr_frame h; exact .inl rfl
  | vidstart => obtain ⟨_, _, _, _, -, rfl⟩ := exec_vidstart_frame h; exact .inl rfl
  | vidstop => obtain ⟨_, _, -, rfl⟩ := exec_vidstop_frame h; exact .inl rfl
  | reset => obtain ⟨_, _, _, _, _, -, -, rfl⟩ := exec_reset_frame h; exact .inl rfl

/-! ### Who writes what (10_state.md) -/

/-- What command `i` may have changed of the elements outside the video buffers (10_state.md R110 to R118, R123, R130
to R132, R150). -/
structure ElementFrame (i : Instr) (s t : State) : Prop where
  cfg : t.cfg = s.cfg
  commands : t.commands = s.commands
  palette : i ≠ .palload →
    t.palette = s.palette ∧ t.colorIndexTable = s.colorIndexTable ∧ t.paletteLoaded = s.paletteLoaded
  memories : (∀ cpu sp a d, i ≠ .buswr cpu sp a d) → t.ram = s.ram ∧ t.vram = s.vram ∧ t.sprram = s.sprram
  control : (∀ cpu sp a d, i ≠ .buswr cpu sp a d) → i ≠ .reset →
    t.scrollXLo = s.scrollXLo ∧ t.scrollXHi = s.scrollXHi ∧ t.scrollYLo = s.scrollYLo ∧ t.scrollYHi = s.scrollYHi ∧
      t.bgEnable = s.bgEnable ∧ t.overdraw = s.overdraw ∧ t.seqEnableMain = s.seqEnableMain ∧
      t.seqEnableSound = s.seqEnableSound
  bank : (∀ cpu sp a d, i ≠ .buswr cpu sp a d) → (∀ v, i ≠ .selbank v) → i ≠ .reset → t.bank = s.bank
  latch : (∀ cpu sp a d, i ≠ .buswr cpu sp a d) → (∀ v, i ≠ .mbwr v) → i ≠ .reset → t.mbLatch = s.mbLatch
  pending : (∀ cpu sp a d, i ≠ .buswr cpu sp a d) → (∀ v, i ≠ .mbwr v) → i ≠ .mbclr → i ≠ .reset →
    t.mbPending = s.mbPending
  events : (∀ cpu sp a d, i ≠ .buswr cpu sp a d) → (∀ v, i ≠ .selbank v) → i ≠ .render → (∀ q, i ≠ .tick q) →
    (∀ v, i ≠ .mbwr v) → i ≠ .reset → t.events = s.events

theorem exec_elementFrame (h : exec i s = .next t) : ElementFrame i s t := by
  cases i with
  | busrd cpu sp a => obtain ⟨_, _, _, rfl⟩ := exec_busrd_frame h; constructor <;> simp
  | buswr cpu sp a d =>
    obtain ⟨_, _, _, _, _, _, _, _, rfl, -⟩ := exec_buswr_frame h
    constructor <;> simp [State.withRegisters]
  | selbank v => obtain ⟨_, _, _, _, -, -, rfl⟩ := exec_selbank_frame h; constructor <;> simp
  | decode k tile c fx fy => obtain ⟨_, _, -, rfl⟩ := exec_decode_frame h; constructor <;> simp
  | markdirty L i => obtain ⟨_, _, rfl⟩ := exec_markdirty_frame h; constructor <;> simp
  | flushdirty L => obtain ⟨_, _, -, rfl⟩ | ⟨v, -, rfl⟩ := exec_flushdirty_frame h <;> constructor <;> simp
  | invalall => obtain ⟨_, _, rfl⟩ := exec_invalall_frame h; constructor <;> simp
  | palload => obtain ⟨_, _, _, _, _, rfl⟩ := exec_palload_frame h; constructor <;> simp
  | render => obtain ⟨_, _, -, rfl⟩ | ⟨v, -, rfl⟩ := exec_render_frame h <;> constructor <;> simp
  | tick q => obtain ⟨_, _, -, rfl⟩ := exec_tick_frame h; constructor <;> simp
  | mbwr v => obtain ⟨_, _, _, _, -, rfl⟩ := exec_mbwr_frame h; constructor <;> simp
  | mbrd => obtain ⟨_, rfl⟩ := exec_mbrd_frame h; constructor <;> simp
  | mbclr => obtain ⟨_, _, rfl⟩ := exec_mbclr_frame h; constructor <;> simp
  | vidstart => obtain ⟨_, _, _, _, -, rfl⟩ := exec_vidstart_frame h; constructor <;> simp
  | vidstop => obtain ⟨_, _, -, rfl⟩ := exec_vidstop_frame h; constructor <;> simp
  | reset =>
    obtain ⟨_, _, _, _, _, -, -, rfl⟩ := exec_reset_frame h
    constructor <;> simp [State.withRegisters]

/-! ### The video buffers -/

theorem State.flushLayer_frame (s : State) (L : Layer) (v : VideoState) :
    (s.flushLayer L v).out = v.out ∧ (s.flushLayer L v).acc = v.acc := by
  unfold State.flushLayer
  generalize List.range (s.cfg.cellCount L) = l
  induction l generalizing v with
  | nil => exact ⟨rfl, rfl⟩
  | cons j l ih =>
    obtain ⟨hout, hacc⟩ := ih (s.flushCell L v j)
    obtain ⟨fout, facc, -⟩ := s.flushCell_frame L v j
    exact ⟨hout.trans fout, hacc.trans facc⟩

/-- What command `i` may have changed of buffers that stood before it and stand after it (10_state.md R140 to R143). -/
structure BufferFrame (i : Instr) (v w : VideoState) : Prop where
  out : w.out = v.out
  cache : (∀ L, i ≠ .flushdirty L) → w.cache = v.cache
  acc : (∀ cpu sp a d, i ≠ .buswr cpu sp a d) → w.acc = v.acc
  dirty : (∀ cpu sp a d, i ≠ .buswr cpu sp a d) → (∀ L cell, i ≠ .markdirty L cell) → (∀ L, i ≠ .flushdirty L) →
    i ≠ .invalall → i ≠ .palload → i ≠ .reset → w.dirty = v.dirty

theorem BufferFrame.of_same {v w : VideoState} (hv : s.video = some v) (hw : t.video = some w)
    (h : t.video = s.video) : BufferFrame i v w := by
  obtain rfl : v = w := Option.some.inj (hv.symm.trans (h.symm.trans hw))
  exact ⟨rfl, fun _ => rfl, fun _ => rfl, fun _ _ _ _ _ _ => rfl⟩

/-- The commands that write flags alone. -/
theorem BufferFrame.of_flags {v w : VideoState} {d : VideoState → Layered (List Bool)} (hv : s.video = some v)
    (hw : t.video = some w) (h : t.video = s.video.map fun v => { v with dirty := d v })
    (hi : (∃ L cell, i = .markdirty L cell) ∨ i = .invalall ∨ i = .palload ∨ i = .reset) : BufferFrame i v w := by
  rw [hw, hv] at h
  obtain rfl := Option.some.inj h
  refine ⟨rfl, fun _ => rfl, fun _ => rfl, fun _ hmark _ hinval hpal hreset => ?_⟩
  obtain ⟨L, cell, hi⟩ | hi | hi | hi := hi
  · exact absurd hi (hmark L cell)
  · exact absurd hi hinval
  · exact absurd hi hpal
  · exact absurd hi hreset

theorem exec_bufferFrame (h : exec i s = .next t) {v w : VideoState} (hv : s.video = some v) (hw : t.video = some w)
    (hrender : i ≠ .render) (hstart : i ≠ .vidstart) : BufferFrame i v w := by
  cases i with
  | render => exact absurd rfl hrender
  | vidstart => exact absurd rfl hstart
  | busrd cpu sp a => obtain ⟨_, _, _, rfl⟩ := exec_busrd_frame h; exact .of_same hv hw rfl
  | buswr cpu sp a d =>
    obtain ⟨_, _, _, _, _, _, _, _, rfl, hkeep, -⟩ := exec_buswr_frame h
    obtain ⟨v', hv', hout, hcache⟩ := hkeep w hw
    obtain rfl := Option.some.inj (hv.symm.trans hv')
    exact ⟨hout, fun _ => hcache, fun hi => absurd rfl (hi cpu sp a d), fun hi => absurd rfl (hi cpu sp a d)⟩
  | selbank v => obtain ⟨_, _, _, _, -, -, rfl⟩ := exec_selbank_frame h; exact .of_same hv hw rfl
  | decode k tile c fx fy => obtain ⟨_, _, -, rfl⟩ := exec_decode_frame h; exact .of_same hv hw rfl
  | markdirty L cell =>
    obtain ⟨_, _, rfl⟩ := exec_markdirty_frame h
    exact .of_flags hv hw rfl (.inl ⟨L, cell, rfl⟩)
  | flushdirty L =>
    obtain ⟨_, _, -, rfl⟩ | ⟨v', hv', rfl⟩ := exec_flushdirty_frame h
    · exact .of_same hv hw rfl
    · obtain rfl := Option.some.inj (hv.symm.trans hv')
      obtain rfl := Option.some.inj hw
      obtain ⟨hout, hacc⟩ := s.flushLayer_frame L v
      exact ⟨hout, fun hi => absurd rfl (hi L), fun _ => hacc, fun _ _ hi => absurd rfl (hi L)⟩
  | invalall => obtain ⟨_, _, rfl⟩ := exec_invalall_frame h; exact .of_flags hv hw rfl (.inr (.inl rfl))
  | palload =>
    obtain ⟨_, _, _, _, _, rfl⟩ := exec_palload_frame h
    exact .of_flags hv hw rfl (.inr (.inr (.inl rfl)))
  | tick q => obtain ⟨_, _, -, rfl⟩ := exec_tick_frame h; exact .of_same hv hw rfl
  | mbwr v => obtain ⟨_, _, _, _, -, rfl⟩ := exec_mbwr_frame h; exact .of_same hv hw rfl
  | mbrd => obtain ⟨_, rfl⟩ := exec_mbrd_frame h; exact .of_same hv hw rfl
  | mbclr => obtain ⟨_, _, rfl⟩ := exec_mbclr_frame h; exact .of_same hv hw rfl
  | vidstop =>
    obtain ⟨video, _, rfl | rfl, rfl⟩ := exec_vidstop_frame h
    · cases hw
    · exact .of_same hv hw rfl
  | reset =>
    obtain ⟨_, _, _, _, _, -, -, rfl⟩ := exec_reset_frame h
    exact .of_flags hv hw rfl (.inr (.inr (.inr rfl)))

/-! ### Events -/

/-- The sources of an interrupt request: an enabled tick, MBWR, and BUSWR through W_SOUND_COMMAND, the last two when
the mailbox is configured to raise one (60_exceptions.md R860). -/
def RequestSource (i : Instr) (s : State) (es : List Event) : Prop :=
  (∃ q, i = .tick q ∧ s.seqEnable q = true ∧ es = [.intReq (Sequencer.target q) (seqKind s.cfg q)]) ∨
  (((∃ v, i = .mbwr v) ∨
    ∃ cpu sp a v r rh wh arg, i = .buswr cpu sp a v ∧ findRange s.cfg cpu sp a = some r ∧
      r.kind = .reg rh wh arg ∧ writeHandlerOf wh = some .soundCommand) ∧
    s.cfg.ints.mailboxRaisesInt = true ∧ es = [.intReq .sound s.cfg.ints.mailboxIntKind])

/-- Every command appends to the event list, and appends a request only from a source of R860, and then nothing
else. -/
theorem exec_events (h : exec i s = .next t) :
    ∃ es, t.events = s.events ++ es ∧ (intReqs es = [] ∨ RequestSource i s es) := by
  have quiet : t.events = s.events → ∃ es, t.events = s.events ++ es ∧ (intReqs es = [] ∨ RequestSource i s es) :=
    fun heq => ⟨[], by rw [heq, List.append_nil], .inl rfl⟩
  have hframe := (exec_elementFrame h).events
  cases i with
  | buswr cpu sp a d =>
    obtain ⟨_, _, _, _, _, es, _, _, rfl, -, ⟨-, hes⟩ | ⟨hreg, hes⟩⟩ := exec_buswr_frame h
    · exact ⟨es, rfl, .inl hes⟩
    · obtain ⟨r, rh, wh, arg, hf, hk, hh⟩ := hreg
      obtain hes | ⟨-, hraise, hes⟩ := hes
      · exact ⟨es, rfl, .inl hes⟩
      · exact ⟨es, rfl, .inr (.inr ⟨.inr ⟨cpu, sp, a, d, r, rh, wh, arg, rfl, hf, hk, hh⟩, hraise, hes⟩)⟩
  | selbank v =>
    obtain ⟨_, es, _, _, -, hes, rfl⟩ := exec_selbank_frame h
    exact ⟨es, rfl, .inl hes⟩
  | render =>
    obtain ⟨_, _, -, rfl⟩ | ⟨v, -, rfl⟩ := exec_render_frame h
    · exact quiet rfl
    · exact ⟨[.present _], rfl, .inl rfl⟩
  | tick q =>
    obtain ⟨es, _, rfl | ⟨hq, rfl⟩, rfl⟩ := exec_tick_frame h
    · exact ⟨[], rfl, .inl rfl⟩
    · exact ⟨_, rfl, .inr (.inl ⟨q, rfl, hq, rfl⟩)⟩
  | mbwr v =>
    obtain ⟨_, _, es, _, rfl | ⟨hraise, rfl⟩, rfl⟩ := exec_mbwr_frame h
    · exact ⟨[], rfl, .inl rfl⟩
    · exact ⟨_, rfl, .inr (.inr ⟨.inl ⟨v, rfl⟩, hraise, rfl⟩)⟩
  | reset =>
    obtain ⟨_, es, _, _, _, -, hes, rfl⟩ := exec_reset_frame h
    exact ⟨es, rfl, .inl hes⟩
  | busrd | decode | markdirty | flushdirty | invalall | palload | mbrd | mbclr | vidstart | vidstop =>
    exact quiet (by simpa using hframe)

theorem RequestSource.length_intReqs {es : List Event} (h : RequestSource i s es) : (intReqs es).length ≤ 1 := by
  obtain ⟨q, -, -, rfl⟩ | ⟨-, -, rfl⟩ := h
  · exact Nat.le_refl 1
  · exact Nat.le_refl 1

/-! ### The mailbox latch -/

/-- A command outside the list of R117 keeps the latch. -/
theorem exec_mbLatch (h : exec i s = .next t) (hi : mayWriteLatch s.cfg i = false) : t.mbLatch = s.mbLatch := by
  have hframe := (exec_elementFrame h).latch
  cases i with
  | buswr cpu sp a d =>
    obtain ⟨_, _, _, _, _, _, _, _, rfl, -, ⟨hlatch, -⟩ | ⟨⟨r, rh, wh, arg, hf, hk, hh⟩, -⟩⟩ := exec_buswr_frame h
    · exact hlatch
    · simp [mayWriteLatch, hf, hk, hh] at hi
  | mbwr v => cases hi
  | reset => cases hi
  | _ => simpa using hframe

/-- Over a list of commands outside the list of R117 the latch stays. -/
theorem execAll_mbLatch {l : List Instr} (hl : ∀ i ∈ l, mayWriteLatch s.cfg i = false) (h : execAll l s = .next t) :
    t.cfg = s.cfg ∧ t.mbLatch = s.mbLatch := by
  induction l generalizing s with
  | nil =>
    cases h
    exact ⟨rfl, rfl⟩
  | cons i l ih =>
    unfold execAll at h
    split at h
    · next u hu =>
      have hcfg := (exec_elementFrame hu).cfg
      obtain ⟨hcfg', hlatch'⟩ := ih (by rw [hcfg]; exact fun j hj => hl j (List.mem_cons_of_mem _ hj)) h
      exact ⟨hcfg'.trans hcfg, hlatch'.trans (exec_mbLatch hu (hl i List.mem_cons_self))⟩
    · cases h
    · cases h

end

/-! ### The statements -/

/-- Settles O5, by what a step does on a legal word. -/
theorem stepRunsDecodedCommand : Obligations.StepRunsDecodedCommand :=
  fun _ _ _ _ hw hi => step_legal hw hi

/-- Settles O6: each way a step can end with a fault mark on a ready machine, and the halted machine. -/
theorem faultIsPreciseAndHalts : Obligations.FaultIsPreciseAndHalts := by
  constructor
  · intro s t r hs h hr
    obtain ⟨-, hidle⟩ | ⟨w, rest, hw, ⟨i, -, hstep⟩ | ⟨-, hstep⟩⟩ := step_cases s
    · cases h.symm.trans hidle
      exact absurd (hs.noFault.symm.trans hr) nofun
    · have hfault := exec_fault_cases (hstep.symm.trans h)
      rw [hw]
      obtain hsame | ⟨-, ⟨r', rfl⟩, -⟩ := hfault
      · exact absurd (hs.noFault.symm.trans (hsame.symm.trans hr)) nofun
      · cases hr
        rfl
    · have hrun : perform { s with commands := rest } (raiseFault .illegalCommand) = .next t := hstep.symm.trans h
      obtain ⟨-, ⟨-, hraise⟩ | ⟨hf, -⟩⟩ := perform_cases hrun
      · rw [hw]
        obtain rfl := raiseFault_eq_next hraise
        cases hr
        rfl
      · exact absurd hs.noFault hf
  · intro s r hv hf hne
    obtain ⟨hnil, -⟩ | ⟨w, rest, hw, ⟨i, -, hstep⟩ | ⟨-, hstep⟩⟩ := step_cases s
    · exact absurd hnil hne
    · obtain ⟨body, hbody⟩ := exec_perform i
      rw [hstep, hbody, perform_halted (s := { s with commands := rest }) hv hf, hw]
      rfl
    · rw [hstep, perform_halted (s := { s with commands := rest }) hv hf, hw]
      rfl

/-- Settles O7: whatever the command, `perform` refuses on such a configuration. -/
theorem rejectedConfigurationRunsNothing : Obligations.RejectedConfigurationRunsNothing := by
  intro i s hv
  obtain ⟨body, hbody⟩ := exec_perform i
  rw [hbody, perform_rejected (by rw [hv]; exact Bool.false_ne_true)]

/-- Settles O8: the two faulting forms, the started bit of every other command, and the fault mark by its cases. -/
theorem stoppedVideoFaultsOnlyRenderAndFlush : Obligations.StoppedVideoFaultsOnlyRenderAndFlush := by
  intro s hs hv
  refine ⟨exec_render_stopped hs hv, exec_flushdirty_stopped hs hv, fun i t hwf hrender hflush hstart h => ⟨?_, ?_⟩⟩
  · rw [← State.videoOn_eq_false_iff]
    by_cases hstop : i = .vidstop
    · subst hstop
      exact exec_vidstop_videoOn hs h
    · rw [exec_videoOn h hstart hstop]
      exact State.videoOn_eq_false_iff.mpr hv
  · obtain hsame | ⟨-, -, ⟨k, tile, c, fx, fy, rfl, hk⟩ | ⟨L, rfl⟩ | rfl⟩ := exec_fault_cases h
    · exact hsame.trans hs.noFault
    · have hlt : k.toNat < s.cfg.layouts.length := of_decide_eq_true hwf
      omega
    · exact absurd rfl (hflush L)
    · exact absurd rfl hrender

/-- Settles O14: the frames of the elements and of the buffers, the started bit, and the cases of the fault mark. -/
theorem elementsWrittenOnlyByTheirCommands : Obligations.ElementsWrittenOnlyByTheirCommands := by
  intro i s t h
  have he := exec_elementFrame h
  refine ⟨he.cfg, he.commands, he.palette, fun hbus => ?_, exec_videoOn h, ?_, he.events,
    fun v w hv hw hrender hstart => ?_⟩
  · obtain ⟨hram, hvram, hspr⟩ := he.memories hbus
    exact ⟨hram, hvram, hspr, he.control hbus, he.bank hbus, he.latch hbus, he.pending hbus⟩
  · obtain hsame | ⟨hf, -, ⟨k, tile, c, fx, fy, hi, -⟩ | hi⟩ := exec_fault_cases h
    · exact .inl hsame
    · exact .inr ⟨hf, .inl ⟨k, tile, c, fx, fy, hi⟩⟩
    · exact .inr ⟨hf, .inr hi⟩
  · have hb := exec_bufferFrame h hv hw hrender hstart
    exact ⟨hb.out, hb.cache, fun hbus => ⟨hb.acc hbus, hb.dirty hbus⟩⟩

/-- Settles O16: a step runs one command, raises one fault or does nothing, and each only appends. -/
theorem eventsOnlyAppended : Obligations.EventsOnlyAppended := by
  intro s t h
  obtain ⟨-, hidle⟩ | ⟨w, rest, -, ⟨i, -, hstep⟩ | ⟨-, hstep⟩⟩ := step_cases s
  · cases h.symm.trans hidle
    exact List.prefix_rfl
  · obtain ⟨es, hes, -⟩ := exec_events (hstep.symm.trans h)
    exact ⟨es, hes.symm⟩
  · obtain ⟨-, ⟨-, hraise⟩ | ⟨-, rfl⟩⟩ := perform_cases (hstep.symm.trans h)
    · rw [raiseFault_eq_next hraise]
    · exact List.prefix_rfl

/-- Settles O17: the events a command appends hold no request, or are the one request of its source. -/
theorem interruptRequestSources : Obligations.InterruptRequestSources := by
  intro i s t h
  obtain ⟨es, hes, hnone | hsource⟩ := exec_events h
  · exact ⟨es, hes, by rw [hnone]; exact Nat.zero_le 1, fun hne => absurd hnone hne⟩
  · exact ⟨es, hes, hsource.length_intReqs, fun _ => hsource⟩

/-- Settles O60, by induction over the commands in between. -/
theorem mailboxNoAutoClear : Obligations.MailboxNoAutoClear := by
  intro s t u v between hs hwrite hkeep hrun hu
  have ht : t = { s.writeCommand v with result := some .ok } := by
    cases hwrite.symm.trans (exec_ready_of_finish (exec_mbwr s v) hs)
    rfl
  have hcfg : t.cfg = s.cfg := by rw [ht]; exact s.writeCommand_cfg v
  have hlatch : t.mbLatch = v := by rw [ht]; exact s.writeCommand_mbLatch v
  obtain ⟨hcfg', hlatch'⟩ := execAll_mbLatch (by rw [hcfg]; exact hkeep) hrun
  rw [exec_mbrd_ready ⟨by rw [hcfg', hcfg]; exact hs.cfgValid, hu⟩, hlatch', hlatch]

end Sys2Proof.Machine
end

section
/-! SUPPORT. The router's ranges on a checked configuration (40_dispatch.md section 1, 60_exceptions.md R850 to R852):
which range covers an address, where its offset lies, the store byte it reaches, and what one store write leaves of
every byte. -/

namespace Sys2Proof.Machine

/-! ### The covering range (R401, R850) -/

/-- In an ordered table the search finds the range that covers the address, since no earlier one reaches it. -/
theorem find?_of_tableOrdered {l : List AddressRange} {r : AddressRange} {a : Addr} (hl : tableOrdered l = true)
    (hr : r ∈ l) (hlo : r.start.toNat ≤ a.toNat) (hhi : a.toNat ≤ r.stop.toNat) :
    (l.find? fun r => decide (r.start.toNat ≤ a.toNat) && decide (a.toNat ≤ r.stop.toNat)) = some r := by
  induction l with
  | nil => cases hr
  | cons q l ih =>
    simp only [tableOrdered, Bool.and_eq_true, decide_eq_true_eq, List.all_eq_true] at hl
    obtain ⟨⟨-, hafter⟩, htail⟩ := hl
    obtain rfl | hr := List.mem_cons.mp hr
    · exact List.find?_cons_of_pos (by simp [hlo, hhi])
    · have hpast := hafter r hr
      rw [List.find?_cons_of_neg (by simp; omega)]
      exact ih htail hr

theorem Config.valid_tableOrdered {c : Config} (hv : c.valid = true) (cpu : Cpu) (sp : Space) :
    tableOrdered (c.busMap cpu sp) = true := by
  have htables := Config.valid_tables hv cpu
  simp only [Config.tablesValid, Bool.and_eq_true] at htables
  obtain ⟨⟨hmem, hio⟩, -⟩ := htables
  cases sp with
  | mem => exact hmem
  | io => exact hio

theorem findRange_eq_some_iff {c : Config} {cpu : Cpu} {sp : Space} {a : Addr} {r : AddressRange}
    (hv : c.valid = true) :
    findRange c cpu sp a = some r ↔ r ∈ c.busMap cpu sp ∧ r.start.toNat ≤ a.toNat ∧ a.toNat ≤ r.stop.toNat :=
  ⟨findRange_spec, fun ⟨hr, hlo, hhi⟩ => find?_of_tableOrdered (Config.valid_tableOrdered hv cpu sp) hr hlo hhi⟩

/-! ### The offset (R405, R851) -/

section
variable {r : AddressRange} {region base : Nat} {banked : Bool}

theorem offset_of_rom (hk : r.kind = .rom region base banked) (bankSize bank : Nat) (a : Addr) :
    r.offset bankSize bank a = base + (if banked then bank * bankSize else 0) + (a.toNat - r.start.toNat) := by
  simp only [AddressRange.offset, hk]

theorem offset_of_ram (hk : r.kind = .ram region base banked) (bankSize bank : Nat) (a : Addr) :
    r.offset bankSize bank a = base + (if banked then bank * bankSize else 0) + (a.toNat - r.start.toNat) := by
  simp only [AddressRange.offset, hk]

theorem offset_of_vid {b : VidBuffer} (hk : r.kind = .vid b base) (bankSize bank : Nat) (a : Addr) :
    r.offset bankSize bank a = base + (a.toNat - r.start.toNat) := by
  simp only [AddressRange.offset, hk]

/-- The check of R851 is made at the last address and the last bank, and the offset grows with both. -/
theorem offset_lt_storeSize {c : Config} {cpu : Cpu} {sp : Space} {a : Addr} {bank : Nat} (hv : c.valid = true)
    (hr : r ∈ c.busMap cpu sp) (hk : ∀ rh wh arg, r.kind ≠ .reg rh wh arg) (ha : a.toNat ≤ r.stop.toNat)
    (hb : bank < c.bank.bankCount) : r.offset c.bank.bankSize bank a < c.storeSize r.kind := by
  obtain ⟨hreach, -, -⟩ := Config.range_checked hv hr
  have hlast : r.offset c.bank.bankSize (c.bank.bankCount - 1) r.stop < c.storeSize r.kind := by
    cases hkind : r.kind with
    | reg rh wh arg => exact absurd hkind (hk rh wh arg)
    | rom | ram | vid => simpa only [AddressRange.reaches, hkind, decide_eq_true_eq] using hreach
  exact Nat.lt_of_le_of_lt (AddressRange.offset_mono r _ (by omega) ha) hlast

end

/-! ### The located byte -/

section
variable {s t : State} {cpu : Cpu} {sp : Space} {a : Addr} {r : AddressRange} {l : Loc} {region base : Nat}
  {banked : Bool}

theorem State.Inv.offset_lt (h : s.Inv) (hf : findRange s.cfg cpu sp a = some r)
    (hk : ∀ rh wh arg, r.kind ≠ .reg rh wh arg) :
    r.offset s.cfg.bank.bankSize s.bank a < s.cfg.storeSize r.kind := by
  obtain ⟨hr, -, ha⟩ := findRange_spec hf
  exact offset_lt_storeSize h.cfgValid hr hk ha h.bankRange

/-- On a well-formed machine every address of a store range reaches a byte (60_exceptions.md R851). -/
theorem State.Inv.exists_locate (h : s.Inv) (hf : findRange s.cfg cpu sp a = some r)
    (hk : ∀ rh wh arg, r.kind ≠ .reg rh wh arg) : ∃ l, s.locate r a = some l :=
  State.locate_isSome hk (h.offset_lt hf hk)

theorem not_reg_of_rom (hk : r.kind = .rom region base banked) (rh wh : BitVec 5) (arg : Nat) :
    r.kind ≠ .reg rh wh arg := by rw [hk]; nofun
theorem not_reg_of_ram (hk : r.kind = .ram region base banked) (rh wh : BitVec 5) (arg : Nat) :
    r.kind ≠ .reg rh wh arg := by rw [hk]; nofun
theorem not_reg_of_vid {b : VidBuffer} (hk : r.kind = .vid b base) (rh wh : BitVec 5) (arg : Nat) :
    r.kind ≠ .reg rh wh arg := by rw [hk]; nofun

theorem State.Inv.locate_rom (h : s.Inv) (hf : findRange s.cfg cpu sp a = some r)
    (hk : r.kind = .rom region base banked) : s.locate r a =
      some (.rom region (base + (if banked then s.bank * s.cfg.bank.bankSize else 0) + (a.toNat - r.start.toNat))) := by
  have hlt := h.offset_lt hf (not_reg_of_rom hk)
  rw [offset_of_rom hk, hk] at hlt
  simp only [State.locate, offset_of_rom hk, hk, if_pos hlt]

theorem State.Inv.locate_ram (h : s.Inv) (hf : findRange s.cfg cpu sp a = some r)
    (hk : r.kind = .ram region base banked) : s.locate r a =
      some (.ram region (base + (if banked then s.bank * s.cfg.bank.bankSize else 0) + (a.toNat - r.start.toNat))) := by
  have hlt := h.offset_lt hf (not_reg_of_ram hk)
  rw [offset_of_ram hk, hk] at hlt
  simp only [State.locate, offset_of_ram hk, hk, if_pos hlt]

theorem State.Inv.locate_tilemap {L : Layer} (h : s.Inv) (hf : findRange s.cfg cpu sp a = some r)
    (hk : r.kind = .vid (.tilemap L) base) : s.locate r a =
      some (.tile L ((base + (a.toNat - r.start.toNat)) / s.cfg.cellCount L)
        ((base + (a.toNat - r.start.toNat)) % s.cfg.cellCount L)) := by
  have hlt := h.offset_lt hf (not_reg_of_vid hk)
  rw [offset_of_vid hk, hk] at hlt
  simp only [State.locate, offset_of_vid hk, hk, if_pos hlt, planeCell]

theorem State.Inv.locate_sprite (h : s.Inv) (hf : findRange s.cfg cpu sp a = some r)
    (hk : r.kind = .vid .sprite base) : s.locate r a = some (.sprite (base + (a.toNat - r.start.toNat))) := by
  have hlt := h.offset_lt hf (not_reg_of_vid hk)
  rw [offset_of_vid hk, hk] at hlt
  simp only [State.locate, offset_of_vid hk, hk, if_pos hlt]

theorem State.locate_congr (hc : t.cfg = s.cfg) (hb : t.bank = s.bank) (r : AddressRange) (a : Addr) :
    t.locate r a = s.locate r a := by
  unfold State.locate
  rw [hc, hb]

theorem exec_busrd_store (hs : s.Ready) (hf : findRange s.cfg cpu sp a = some r)
    (hk : ∀ rh wh arg, r.kind ≠ .reg rh wh arg) (hl : s.locate r a = some l) :
    exec (.busrd cpu sp a) s = .next { s with result := some (.byte (s.readLoc l)) } := by
  rw [exec_busrd, perform_ready hs.cfgValid hs.noFault]
  exact State.memRead_store hf hk hl

theorem exec_buswr_store (hs : s.Ready) (hf : findRange s.cfg cpu sp a = some r)
    (hk : ∀ rh wh arg, r.kind ≠ .reg rh wh arg) (hl : s.locate r a = some l) (v : Byte) :
    exec (.buswr cpu sp a v) s = .next { s.writeLoc l v with result := some .ok } := by
  rw [exec_buswr, perform_ready hs.cfgValid hs.noFault]
  exact State.memWrite_store hf hk hl

/-! ### Places a store write lands on -/

/-- Region `region` of a RAM whose size is not 0 is one of the machine's (10_state.md R130). -/
theorem State.Inv.ram_region_lt (h : s.Inv) {off : Nat} (hlt : off < s.cfg.ramSize region) :
    region < s.ram.length := by
  rw [h.ramRegions]
  by_contra hge
  rw [Config.ramSize, List.getElem?_eq_none (Nat.le_of_not_lt hge)] at hlt
  exact Nat.not_lt_zero _ hlt

theorem Config.valid_layer {c : Config} (hv : c.valid = true) (L : Layer) : (c.layers.get L).typed = true := by
  have htyped := Config.valid_typed hv
  simp only [Config.typed, Bool.and_eq_true] at htyped
  obtain ⟨⟨⟨-, hbg⟩, hfg⟩, -⟩ := htyped
  cases L with
  | bg => exact hbg
  | fg => exact hfg

theorem Config.planes_le_two {c : Config} (hv : c.valid = true) (L : Layer) : (c.layers.get L).planes ≤ 2 := by
  have htyped := Config.valid_layer hv L
  simp only [LayerCfg.typed, Bool.and_eq_true, Bool.or_eq_true, decide_eq_true_eq] at htyped
  omega

/-- An offset inside a layer's video RAM stands in one of its two planes (30_encoding.md R351). -/
theorem plane_lt_two {c : Config} (hv : c.valid = true) {L : Layer} {off : Nat} (hlt : off < c.vramSize L) :
    off / c.cellCount L < 2 := by
  refine Nat.div_lt_of_lt_mul (Nat.lt_of_lt_of_le hlt ?_)
  rw [Config.vramSize, Nat.mul_comm]
  exact Nat.mul_le_mul_left _ (Config.planes_le_two hv L)

/-- The place is a byte of a memory the machine holds (10_state.md R130 to R132). -/
def State.Holds (s : State) : Loc → Prop
  | .rom _ _ => False
  | .ram region off => region < s.ram.length ∧ off < s.cfg.ramSize region
  | .tile L plane cell => plane < 2 ∧ cell < s.cfg.cellCount L
  | .sprite off => off < s.cfg.sprramSize

/-- A located byte is a ROM byte or one of the machine's memories. -/
theorem State.Inv.holds_of_locate (h : s.Inv) (hl : s.locate r a = some l) :
    (∃ region off, l = .rom region off) ∨ s.Holds l := by
  obtain ⟨hlt, ⟨region, base, banked, -, rfl⟩ | ⟨region, base, banked, hk, rfl⟩ | ⟨L, base, hk, rfl⟩ |
    ⟨base, hk, rfl⟩⟩ := State.locate_spec hl
  · exact .inl ⟨_, _, rfl⟩
  · rw [hk] at hlt
    exact .inr ⟨h.ram_region_lt hlt, hlt⟩
  · rw [hk] at hlt
    exact .inr ⟨plane_lt_two h.cfgValid hlt, Nat.mod_lt _ (Config.cellCount_pos h.cfgValid L)⟩
  · rw [hk] at hlt
    exact .inr hlt

/-! ### Every byte after a store write -/

@[simp] theorem State.writeLoc_cfg (s : State) (l : Loc) (v : Byte) : (s.writeLoc l v).cfg = s.cfg := by
  cases l <;> rfl
@[simp] theorem State.writeLoc_bank (s : State) (l : Loc) (v : Byte) : (s.writeLoc l v).bank = s.bank := by
  cases l <;> rfl
@[simp] theorem State.writeLoc_fault (s : State) (l : Loc) (v : Byte) : (s.writeLoc l v).fault = s.fault := by
  cases l <;> rfl

theorem State.ramByte_writeLoc (hr : region < s.ram.length) (off : Nat) (v : Byte) (r' o : Nat) :
    (s.writeLoc (.ram region off) v).ramByte r' o = if r' = region ∧ o = off then v else s.ramByte r' o := by
  simp only [State.ramByte, State.writeLoc, List.getElem?_modify]
  by_cases hreg : r' = region
  · subst hreg
    simp [hr, Memory.read_write]
  · simp [hreg, Ne.symm hreg]

theorem State.vramByte_writeLoc (s : State) {L : Layer} {p q : Nat} (hp : p < 2) (hq : q < 2) (i : Nat) (v : Byte)
    (L' : Layer) (j : Nat) : (s.writeLoc (.tile L q i) v).vramByte L' p j =
      if L' = L ∧ p = q ∧ j = i then v else s.vramByte L' p j := by
  have hplane : (p = 0 ↔ q = 0) ↔ p = q := by omega
  have hvram : (s.writeLoc (.tile L q i) v).vram = s.vram.set L ((s.vram.get L).write q i v) := rfl
  unfold State.vramByte
  rw [hvram, Layered.get_set]
  by_cases hL : L' = L
  · subst hL
    simp only [if_true, Planes.plane_write, hplane, true_and]
    by_cases hpq : p = q
    · simp [hpq, Memory.read_write]
    · simp [hpq]
  · simp [hL]

theorem State.sprramByte_writeLoc (s : State) (off : Nat) (v : Byte) (o : Nat) :
    (s.writeLoc (.sprite off) v).sprramByte o = if o = off then v else s.sprramByte o :=
  Memory.read_write _ _ _ _

/-- The written byte is what the place reads as next. -/
theorem State.readLoc_writeLoc_self (h : s.Holds l) (v : Byte) : (s.writeLoc l v).readLoc l = v := by
  cases l with
  | rom region off => exact h.elim
  | ram region off => exact (State.ramByte_writeLoc h.1 off v region off).trans (if_pos ⟨rfl, rfl⟩)
  | tile L p i => exact (s.vramByte_writeLoc h.1 h.1 i v L i).trans (if_pos ⟨rfl, rfl, rfl⟩)
  | sprite off => exact (s.sprramByte_writeLoc off v off).trans (if_pos rfl)

theorem State.readLoc_congr (hc : t.cfg = s.cfg) (hram : t.ram = s.ram) (hvram : t.vram = s.vram)
    (hspr : t.sprram = s.sprram) (l : Loc) : t.readLoc l = s.readLoc l := by
  cases l with
  | rom region off => exact congrArg (fun c => c.rom region off) hc
  | ram region off => exact congrArg (fun m : List Memory => ((m[region]?).getD []).read off) hram
  | tile L p i => exact congrArg (fun m : Layered Planes => ((m.get L).plane p).read i) hvram
  | sprite off => exact congrArg (fun m : Memory => m.read off) hspr

/-! ### Stores of the two CPUs (R852) -/

/-- What R852 calls the store of a byte. -/
def Loc.thing : Loc → Option SharedThing
  | .rom _ _ => none
  | .ram region _ => some (.ram region)
  | .tile L _ _ => some (.video (.tilemap L))
  | .sprite _ => some (.video .sprite)

theorem thing_mem_reached (hl : s.locate r a = some l) {x : SharedThing} (hx : l.thing = some x) : x ∈ r.reached := by
  obtain ⟨-, ⟨region, base, banked, -, rfl⟩ | ⟨region, base, banked, hk, rfl⟩ | ⟨L, base, hk, rfl⟩ |
    ⟨base, hk, rfl⟩⟩ := State.locate_spec hl
  · cases hx
  · cases hx
    simp [AddressRange.reached, hk]
  · cases hx
    simp [AddressRange.reached, hk]
  · cases hx
    simp [AddressRange.reached, hk]

/-- Ranges of the two CPUs reach no thing in common (60_exceptions.md R852). -/
theorem reached_disjoint {c : Config} (hv : c.valid = true) {cpu' : Cpu} {sp' : Space} {r' : AddressRange}
    (hne : cpu ≠ cpu') (hr : r ∈ c.busMap cpu sp) (hr' : r' ∈ c.busMap cpu' sp') {x : SharedThing}
    (hx : x ∈ r.reached) : x ∉ r'.reached := by
  have hun := Config.valid_unshared hv
  simp only [Config.unshared, List.all_eq_true, List.mem_flatMap, Bool.not_eq_true', List.contains_eq_mem,
    decide_eq_false_iff_not, not_exists, not_and, forall_exists_index, and_imp] at hun
  intro hx'
  cases cpu with
  | main =>
    obtain rfl : cpu' = .sound := by cases cpu' with
      | main => exact absurd rfl hne
      | sound => rfl
    exact hun x r (Config.mem_ranges hr) hx r' (Config.mem_ranges hr') hx'
  | sound =>
    obtain rfl : cpu' = .main := by cases cpu' with
      | main => rfl
      | sound => exact absurd rfl hne
    exact hun x r' (Config.mem_ranges hr') hx' r (Config.mem_ranges hr) hx

/-- A store write is not seen in another store. -/
theorem State.readLoc_writeLoc_of_thing_ne (s : State) {l' : Loc} (hne : l.thing = none ∨ l'.thing ≠ l.thing)
    (v : Byte) : (s.writeLoc l v).readLoc l' = s.readLoc l' := by
  cases l with
  | rom region off => rfl
  | ram region off =>
    cases l' with
    | ram region' off' =>
      have hreg : region ≠ region' := by rintro rfl; simp [Loc.thing] at hne
      simp [State.readLoc, State.writeLoc, State.ramByte, hreg]
    | rom | tile | sprite => rfl
  | tile L p i =>
    cases l' with
    | tile L' p' i' =>
      have hL : L' ≠ L := by rintro rfl; simp [Loc.thing] at hne
      simp [State.readLoc, State.writeLoc, State.vramByte, hL]
    | rom | ram | sprite => rfl
  | sprite off =>
    cases l' with
    | sprite off' => simp [Loc.thing] at hne
    | rom | ram | tile => rfl

end

end Sys2Proof.Machine
end

section
/-! SUPPORT. The statements about BUSRD and BUSWR (40_dispatch.md): O18 to O28 and O30 to O32, each by the kind of the
range the address is found in. -/

namespace Sys2Proof.Machine

/-! ### Unmapped addresses and ROM -/

/-- Settles O18: an address no range covers has neither store nor handler. -/
theorem unmappedAccessHarmless : Obligations.UnmappedAccessHarmless := by
  intro s cpu sp a hs hf
  constructor
  · rw [exec_busrd, perform_ready hs.cfgValid hs.noFault]
    simp only [State.memRead, hf, finish]
  · intro v
    rw [exec_buswr, perform_ready hs.cfgValid hs.noFault]
    simp only [State.memWrite, hf, finish]

/-- Settles O19: the byte is located, and a located ROM byte ignores the write. -/
theorem romWriteIgnored : Obligations.RomWriteIgnored := by
  intro s cpu sp a v r region base banked hinv hfault hf hk
  exact exec_buswr_store (hinv.ready hfault) hf (not_reg_of_rom hk) (hinv.locate_rom hf hk) v

/-- Settles O20, by the order of a checked table. -/
theorem findIsTheOnlyCoveringRange : Obligations.FindIsTheOnlyCoveringRange :=
  fun _ _ _ _ _ hv => findRange_eq_some_iff hv

/-- Settles O21, by the check of R851 at the largest offset. -/
theorem routerOffsetInsideStore : Obligations.RouterOffsetInsideStore :=
  fun _ _ _ _ _ _ hv hr hk _ ha hb => offset_lt_storeSize hv hr hk ha hb

/-! ### Stores -/

/-- Settles O22: the byte at the place the range locates, kind by kind. -/
theorem busReadOfStoreByte : Obligations.BusReadOfStoreByte := by
  intro s cpu sp a r hinv hfault hf
  have hs := hinv.ready hfault
  refine ⟨fun region base banked hk => ?_, fun region base banked hk => ?_, fun L base hk => ?_, fun base hk => ?_⟩
  · exact exec_busrd_store hs hf (not_reg_of_rom hk) (hinv.locate_rom hf hk)
  · exact exec_busrd_store hs hf (not_reg_of_ram hk) (hinv.locate_ram hf hk)
  · exact exec_busrd_store hs hf (not_reg_of_vid hk) (hinv.locate_tilemap hf hk)
  · exact exec_busrd_store hs hf (not_reg_of_vid hk) (hinv.locate_sprite hf hk)

/-- Settles O24: the write to the located RAM byte, and every RAM byte after it. -/
theorem busWriteRamByte : Obligations.BusWriteRamByte := by
  intro s cpu sp a v r region base banked hinv hfault hf hk
  have hlt := hinv.offset_lt hf (not_reg_of_ram hk)
  rw [hk] at hlt
  exact ⟨_, exec_buswr_store (hinv.ready hfault) hf (not_reg_of_ram hk) (hinv.locate_ram hf hk) v, rfl,
    State.ramByte_writeLoc (hinv.ram_region_lt hlt) _ v⟩

/-- Settles O25: the write to the located plane and cell, every video-RAM byte and every flag after it. -/
theorem busWriteTilemapByte : Obligations.BusWriteTilemapByte := by
  intro s cpu sp a v r L base hinv hfault hf hk
  have hlt := hinv.offset_lt hf (not_reg_of_vid hk)
  rw [offset_of_vid hk, hk] at hlt
  refine ⟨_, exec_buswr_store (hinv.ready hfault) hf (not_reg_of_vid hk) (hinv.locate_tilemap hf hk) v, rfl,
    fun L' p i hp => s.vramByte_writeLoc hp (plane_lt_two hinv.cfgValid hlt) _ v L' i, fun hv => ?_, fun w hw => ?_⟩
  · exact congrArg (Option.map _) hv
  · refine ⟨_, congrArg (Option.map _) hw, rfl, rfl, rfl, ?_⟩
    have hflags := w.isDirty_setDirty true
      (hinv.mod_cellCount_lt hw L ((base + (a.toNat - r.start.toNat)) % s.cfg.cellCount L))
    rw [Nat.mod_mod] at hflags
    simpa only [Nat.mod_mod] using hflags

/-- Settles O26: the write to the located byte of the sprite table. -/
theorem busWriteSpriteByte : Obligations.BusWriteSpriteByte := by
  intro s cpu sp a v r base hinv hfault hf hk
  exact ⟨_, exec_buswr_store (hinv.ready hfault) hf (not_reg_of_vid hk) (hinv.locate_sprite hf hk) v, rfl,
    s.sprramByte_writeLoc _ v⟩

section
variable {s t : State} {cpu : Cpu} {sp : Space} {a : Addr} {r : AddressRange}

/-- A range of RAM or of a video buffer reaches a byte the machine holds. -/
theorem State.Inv.exists_holds (h : s.Inv) (hf : findRange s.cfg cpu sp a = some r)
    (hk : (∃ region base banked, r.kind = .ram region base banked) ∨ ∃ b base, r.kind = .vid b base) :
    (∀ rh wh arg, r.kind ≠ .reg rh wh arg) ∧ ∃ l, s.locate r a = some l ∧ s.Holds l := by
  have hreg : ∀ rh wh arg, r.kind ≠ .reg rh wh arg := by
    obtain ⟨region, base, banked, hk⟩ | ⟨b, base, hk⟩ := hk
    · exact not_reg_of_ram hk
    · exact not_reg_of_vid hk
  obtain ⟨l, hl⟩ := h.exists_locate hf hreg
  obtain ⟨region, off, rfl⟩ | hholds := h.holds_of_locate hl
  · obtain ⟨-, ⟨_, _, _, hrom, -⟩ | ⟨_, _, _, -, heq⟩ | ⟨_, _, -, heq⟩ | ⟨_, -, heq⟩⟩ := State.locate_spec hl
    · obtain ⟨_, _, _, hk⟩ | ⟨_, _, hk⟩ := hk
      · cases hrom.symm.trans hk
      · cases hrom.symm.trans hk
    · cases heq
    · cases heq
    · cases heq
  · exact ⟨hreg, l, hl, hholds⟩

end

/-- Settles O31: the next read locates the same place, which holds the written byte. -/
theorem storedByteReadsBack : Obligations.StoredByteReadsBack := by
  intro s t cpu sp a v r hinv hfault hf hk h
  obtain ⟨hreg, l, hl, hholds⟩ := hinv.exists_holds hf hk
  obtain rfl := Host.Outcome.next.inj ((exec_buswr_store (hinv.ready hfault) hf hreg hl v).symm.trans h)
  have hcfg : (s.writeLoc l v).cfg = s.cfg := s.writeLoc_cfg l v
  have hread := exec_busrd_store (s := { s.writeLoc l v with result := some .ok })
    ⟨hcfg ▸ hinv.cfgValid, (s.writeLoc_fault l v).trans hfault⟩ (hcfg ▸ hf) hreg
    ((State.locate_congr hcfg (s.writeLoc_bank l v) r a).trans hl)
  rw [hread]
  exact congrArg (fun x => Host.Outcome.next { s.writeLoc l v with result := some (.byte x) })
    (State.readLoc_writeLoc_self hholds v)

section
variable {s t : State} {cpu cpu' : Cpu} {sp sp' : Space} {a b : Addr} {r : AddressRange}

/-- The bank does not move the place of an unbanked RAM byte or of a video-RAM byte (40_dispatch.md R405). -/
theorem State.locate_of_unbanked (hc : t.cfg = s.cfg)
    (hk : (∃ region base, r.kind = .ram region base false) ∨ ∃ buf base, r.kind = .vid buf base) (a : Addr) :
    t.locate r a = s.locate r a := by
  have hoff : ∀ bankSize bank bank', r.offset bankSize bank a = r.offset bankSize bank' a := by
    intro bankSize bank bank'
    obtain ⟨region, base, hk⟩ | ⟨buf, base, hk⟩ := hk
    · rw [offset_of_ram hk, offset_of_ram hk]
      rfl
    · rw [offset_of_vid hk, offset_of_vid hk]
  unfold State.locate
  rw [hc, hoff _ t.bank s.bank]

theorem State.readLoc_writeHandler (s : State) (hd : WriteHandler) (arg : Nat) (d : Byte) (l : Loc) :
    (s.writeHandler hd arg d).readLoc l = s.readLoc l := by
  rw [s.writeHandler_frame hd arg d]
  exact State.readLoc_congr rfl rfl rfl rfl l

/-- A bus write changes no byte of a store of the other CPU (60_exceptions.md R852). -/
theorem exec_buswr_otherCpu {v : Byte} (hinv : s.Inv) (hne : cpu ≠ cpu') (h : exec (.buswr cpu sp a v) s = .next t)
    (hf : findRange s.cfg cpu' sp' b = some r) {l : Loc} (hl : s.locate r b = some l) :
    t.readLoc l = s.readLoc l := by
  obtain ⟨hmem, -, -⟩ := findRange_spec hf
  obtain ⟨-, ⟨-, hrun⟩ | ⟨-, rfl⟩⟩ := perform_cases ((exec_buswr s cpu sp a v).symm.trans h)
  · obtain ⟨-, rfl⟩ | ⟨q, k, hq, hk, rfl⟩ | ⟨q, rh, wh, arg, hd, -, -, -, rfl⟩ := State.memWrite_cases hrun
    · exact State.readLoc_congr rfl rfl rfl rfl l
    · obtain ⟨hqmem, -, -⟩ := findRange_spec hq
      have hthing : k.thing = none ∨ l.thing ≠ k.thing := by
        cases hx : k.thing with
        | none => exact .inl rfl
        | some x =>
          refine .inr fun heq => ?_
          exact reached_disjoint hinv.cfgValid hne hqmem hmem (thing_mem_reached hk hx) (thing_mem_reached hl heq)
      calc State.readLoc { s.writeLoc k v with result := some .ok } l
          = (s.writeLoc k v).readLoc l := State.readLoc_congr rfl rfl rfl rfl l
        _ = s.readLoc l := s.readLoc_writeLoc_of_thing_ne hthing v
    · calc State.readLoc { s.writeHandler hd arg v with result := some .ok } l
          = (s.writeHandler hd arg v).readLoc l := State.readLoc_congr rfl rfl rfl rfl l
        _ = s.readLoc l := s.readLoc_writeHandler hd arg v l
  · exact State.readLoc_congr rfl rfl rfl rfl l

end

/-- Settles O32: the other CPU's range locates the same place before and after, and its store is not the one the write
reaches. -/
theorem otherCpuStoreUntouched : Obligations.OtherCpuStoreUntouched := by
  intro s t cpu cpu' sp sp' a b v r hinv hfault hne h hf hk
  obtain ⟨hreg, l, hl, -⟩ := hinv.exists_holds hf (hk.imp_left fun ⟨region, base, hk⟩ => ⟨region, base, _, hk⟩)
  have hcfg : t.cfg = s.cfg := (exec_elementFrame h).cfg
  have hfault' : t.fault = none := by
    obtain hsame | ⟨-, -, ⟨_, _, _, _, _, hi, -⟩ | ⟨_, hi⟩ | hi⟩ := exec_fault_cases h
    · exact hsame.trans hfault
    · cases hi
    · cases hi
    · cases hi
  refine ⟨s.readLoc l, exec_busrd_store (hinv.ready hfault) hf hreg hl, ?_⟩
  rw [exec_busrd_store ⟨hcfg ▸ hinv.cfgValid, hfault'⟩ (hcfg.symm ▸ hf) hreg
    ((State.locate_of_unbanked hcfg hk b).trans hl), exec_buswr_otherCpu hinv hne h hf hl]

/-! ### Registers -/

/-- Settles O23: the three read handlers, the external input by what the host has supplied. -/
theorem busReadOfRegister : Obligations.BusReadOfRegister := by
  intro s cpu sp a r rh wh arg hs hf hk
  refine ⟨?_, ?_, ?_⟩
  · rintro rfl
    exact exec_busrd_reg hs hf hk rfl
  · rintro rfl
    exact exec_busrd_reg hs hf hk rfl
  · rintro rfl
    have hrun : exec (.busrd cpu sp a) s = finish (.byte (s.drawInput arg).1) (s.drawInput arg).2 :=
      exec_busrd_reg hs hf hk rfl
    constructor
    · intro v rest hin
      have hdraw : s.drawInput arg = (v, { s with inputs := rest }) := by simp only [State.drawInput, hin]
      rw [hrun, hdraw]
      rfl
    · intro hin
      have hdraw : s.drawInput arg = (Config.inputDraw arg s.draws, { s with draws := s.draws + 1 }) := by
        simp only [State.drawInput, hin]
      exact ⟨_, by rw [hrun, hdraw]; rfl⟩

theorem ofBool_bit0 (d : Byte) : BitVec.ofBool (bit0 d) = d.extractLsb' 0 1 := by
  ext i hi
  obtain rfl : i = 0 := by omega
  simp [bit0, BitVec.getElem_ofBool]

/-- Settles O27: each handler writes its own register. -/
theorem busWriteScrollAndEnableRegisters : Obligations.BusWriteScrollAndEnableRegisters := by
  intro s cpu sp a d r rh wh arg hs hf hk
  refine ⟨?_, ?_, ?_, ?_, ?_, ?_, ?_⟩
  · rintro rfl
    exact exec_buswr_reg hs hf hk rfl d
  · rintro rfl
    rw [← ofBool_bit0]
    exact exec_buswr_reg hs hf hk rfl d
  · rintro rfl
    exact exec_buswr_reg hs hf hk rfl d
  · rintro rfl
    rw [← ofBool_bit0]
    exact exec_buswr_reg hs hf hk rfl d
  · rintro rfl
    exact exec_buswr_reg hs hf hk rfl d
  · rintro rfl
    exact exec_buswr_reg hs hf hk rfl d
  · rintro rfl
    exact exec_buswr_reg hs hf hk rfl d

/-! ### The overdraw register (R437, R640) -/

theorem State.wOverdraw_eq (s : State) (arg : Nat) (d : Byte) :
    s.wOverdraw arg d = { s with
      overdraw := d.getLsbD 0
      video := if s.overdraw = true ∧ d.getLsbD 0 = false then s.video.map (fun v => { v with acc := clearAcc s.cfg })
        else s.video } := by
  unfold State.wOverdraw bit0
  simp only [Bool.and_eq_true, Bool.not_eq_true']

/-- Settles O28: a 1-to-0 write of a started video clears the accumulation buffer, every other write keeps it. -/
theorem busWriteOverdraw : Obligations.BusWriteOverdraw := by
  intro s cpu sp a d r rh arg hs hf hk
  have hrun : exec (.buswr cpu sp a d) s = finish .ok (s.wOverdraw arg d) := exec_buswr_reg hs hf hk rfl d
  rw [hrun, s.wOverdraw_eq arg d]
  constructor
  · rintro (hkeep | hv)
    · rw [if_neg hkeep]
      rfl
    · rw [hv, Option.map_none, ite_self]
      rfl
  · intro hover hd v hv
    refine ⟨clearAcc s.cfg, ?_, Surface.sized_build _ _ _, fun y x hy hx => ?_⟩
    · rw [if_pos ⟨hover, hd⟩, hv, hd]
      rfl
    · rw [clearAcc, Surface.at?_build, if_pos ⟨hy, hx⟩]

/-- Settles O30: W_NOP is the identity, and the sound-chip handlers emit. -/
theorem busWriteSoundChipAndNop : Obligations.BusWriteSoundChipAndNop := by
  intro s cpu sp a d r rh wh arg hs hf hk
  refine ⟨?_, ?_, ?_⟩
  · rintro rfl
    exact exec_buswr_reg hs hf hk rfl d
  · rintro rfl
    exact exec_buswr_reg hs hf hk rfl d
  · rintro rfl
    exact exec_buswr_reg hs hf hk rfl d

end Sys2Proof.Machine
end

section
/-! SUPPORT. The commands outside the router and the video pipeline: SELBANK (41_bank.md), DECODE's result, INVALALL and
PALLOAD (43_dirty.md), VIDSTART and VIDSTOP (44_compositor.md section 6), TICK, the mailbox and RESET. O33 to O36, O43,
O51 to O56 and O58. -/

namespace Sys2Proof.Machine

/-! ### Bank select -/

/-- A checked configuration sends every value outside the banks into them (00_scope.md R11). -/
theorem bankOutOfRange_lt {c : Config} (hv : c.valid = true) (value : Byte) :
    bankOutOfRange c.bank value < c.bank.bankCount := by
  obtain ⟨hpos, htyped, -⟩ := Config.valid_bank hv
  unfold bankOutOfRange
  split
  · exact Nat.mod_lt _ hpos
  · omega
  · next values hfn =>
    simp only [hfn, OutOfRangeFn.typed, Bool.and_eq_true, decide_eq_true_eq, List.all_eq_true] at htyped
    obtain ⟨hlen, hall⟩ := htyped
    have hidx : value.toNat < values.length := hlen ▸ value.isLt
    rw [List.getElem?_eq_getElem hidx]
    exact hall _ (List.getElem_mem hidx)

theorem bankTarget_lt {c : Config} (hv : c.valid = true) (value : Byte) : bankTarget c value < c.bank.bankCount := by
  unfold bankTarget
  split
  · next hlt => exact hlt
  · exact bankOutOfRange_lt hv value

theorem bankTarget_of_lt {c : Config} {value : Byte} (h : value.toNat < c.bank.bankCount) :
    bankTarget c value = value.toNat := if_pos h

theorem bankTarget_of_le {c : Config} {value : Byte} (h : c.bank.bankCount ≤ value.toNat) :
    bankTarget c value = bankOutOfRange c.bank value := if_neg (Nat.not_lt.mpr h)

/-- Settles O34. -/
theorem bankTargetInRange : Obligations.BankTargetInRange := by
  refine fun c value hv => ⟨bankTarget_lt hv value, fun hmask => ?_⟩
  unfold bankTarget
  split
  · next hlt => exact (Nat.mod_eq_of_lt hlt).symm
  · simp only [bankOutOfRange, hmask]

theorem State.selectBank_of_ne {s : State} {value : Byte} (h : bankTarget s.cfg value ≠ s.bank) :
    s.selectBank value = { s with
      bank := bankTarget s.cfg value
      events := s.events ++ [.programBank (bankTarget s.cfg value)] } := if_pos h

/-- A select of the mapped bank leaves the latch, and the policy alone decides (41_bank.md R451). -/
theorem State.selectBank_of_eq {s : State} {value : Byte} (h : bankTarget s.cfg value = s.bank) :
    s.selectBank value = s.equalSelect s.bank := by
  have hsel : s.selectBank value = State.equalSelect { s with bank := bankTarget s.cfg value } (bankTarget s.cfg value) :=
    if_neg (not_not_intro h)
  rw [hsel, h]

/-- Settles O33: the target by its two cases, the event by whether the latch changes and then by the policy. -/
theorem selbankEffect : Obligations.SelbankEffect := by
  intro s value hs
  have hrun := exec_ready_of_finish (exec_selbank s value) hs
  refine ⟨bankTarget_of_lt, bankTarget_of_le, fun hne => ?_, fun heq hpol => ?_, fun heq hpol => ?_,
    fun heq hpol => ?_⟩
  · rw [hrun, State.selectBank_of_ne hne]
  · rw [hrun, State.selectBank_of_eq heq]
    simp only [State.equalSelect, hpol, State.emit]
  · rw [hrun, State.selectBank_of_eq heq]
    simp only [State.equalSelect, hpol]
  · refine ⟨if Config.freeBit s.draws then [.programBank s.bank] else [], ?_, ?_⟩
    · split
      · exact .inr rfl
      · exact .inl rfl
    · rw [hrun, State.selectBank_of_eq heq]
      simp only [State.equalSelect, hpol]

/-- Settles O35: both selects set the latch to the bank named, and a select moves nothing else a place depends on. -/
theorem selbankIdempotent : Obligations.SelbankIdempotent := by
  intro s t u i hi hf ht hu
  have hs : s.Ready := ⟨exec_cfgValid ht, hf⟩
  obtain rfl := Host.Outcome.next.inj ((exec_ready_of_finish (exec_selbank s i) hs).symm.trans ht)
  have hcfg : (s.selectBank i).cfg = s.cfg := s.selectBank_cfg i
  have hs' : State.Ready { s.selectBank i with result := some .ok } :=
    ⟨hcfg.symm ▸ hs.cfgValid, (s.selectBank_fault i).trans hf⟩
  obtain rfl := Host.Outcome.next.inj ((exec_ready_of_finish (exec_selbank _ i) hs').symm.trans hu)
  have hbank : (s.selectBank i).bank = i.toNat := (s.selectBank_bank i).trans (bankTarget_of_lt hi)
  have hbank' : (State.selectBank { s.selectBank i with result := some .ok } i).bank = (s.selectBank i).bank := by
    rw [State.selectBank_bank, hbank]
    exact bankTarget_of_lt (by simpa using hi)
  refine ⟨hbank, hbank', fun r a => ⟨State.locate_congr (by simp) hbank' r a, fun l => ⟨?_, ?_⟩⟩⟩
  · exact State.readLoc_congr (by simp) (by simp) (by simp) (by simp) l
  · exact State.readLoc_congr (by simp) (by simp) (by simp) (by simp) l

/-! ### DECODE -/

/-- Settles O36, by the check on the layout number. -/
theorem decodeCommandReturnsBlock : Obligations.DecodeCommandReturnsBlock := by
  intro s k tile coloff fx fy hs
  rw [exec_decode_ready hs]
  exact ⟨fun hlt => if_pos hlt, fun hle => if_neg (Nat.not_lt.mpr hle)⟩

/-! ### Every flag set -/

theorem isDirty_allDirty (v : VideoState) (c : Config) (L : Layer) (j : Nat) :
    VideoState.isDirty { v with dirty := allDirty c } L j = true ↔ j < c.cellCount L := by
  have hget : (allDirty c).get L = List.replicate (c.cellCount L) true := by cases L <;> rfl
  unfold VideoState.isDirty
  rw [hget, List.getElem?_replicate]
  split
  · next hlt => simp [hlt]
  · next hge => simp [hge]

theorem State.forceAllDirty_of_stopped {s : State} (hv : s.video = none) : s.forceAllDirty = s := by
  have hmap : s.forceAllDirty.video = s.video := by rw [State.forceAllDirty_video, hv, Option.map_none]
  calc s.forceAllDirty
      = { s with video := s.forceAllDirty.video } := rfl
    _ = s := by rw [hmap]

theorem State.forceAllDirty_of_started {s : State} {v : VideoState} (hv : s.video = some v) :
    s.forceAllDirty = { s with video := some { v with dirty := allDirty s.cfg } } := by
  unfold State.forceAllDirty
  rw [hv, Option.map_some]

theorem State.loadPalette_of_stopped {s : State} (hv : s.video = none) : s.loadPalette = { s with
    palette := s.cfg.raster.derivedPalette
    colorIndexTable := s.cfg.raster.derivedIndexTable
    paletteLoaded := true } :=
  State.forceAllDirty_of_stopped (s := { s with
    palette := s.cfg.raster.derivedPalette
    colorIndexTable := s.cfg.raster.derivedIndexTable
    paletteLoaded := true }) hv

theorem State.loadPalette_of_started {s : State} {v : VideoState} (hv : s.video = some v) : s.loadPalette = { s with
    palette := s.cfg.raster.derivedPalette
    colorIndexTable := s.cfg.raster.derivedIndexTable
    paletteLoaded := true
    video := some { v with dirty := allDirty s.cfg } } :=
  State.forceAllDirty_of_started (s := { s with
    palette := s.cfg.raster.derivedPalette
    colorIndexTable := s.cfg.raster.derivedIndexTable
    paletteLoaded := true }) hv

/-- Settles O43: ForceAllDirty, stopped and started, with the palette taken first for PALLOAD. -/
theorem invalallAndPalloadEffect : Obligations.InvalallAndPalloadEffect := by
  intro s hs
  have hinval := exec_ready_of_finish (exec_invalall s) hs
  have hpal := exec_ready_of_finish (exec_palload s) hs
  constructor
  · intro hv
    constructor
    · rw [hinval, State.forceAllDirty_of_stopped hv]
    · rw [hpal, State.loadPalette_of_stopped hv]
  · intro v hv
    refine ⟨allDirty s.cfg, isDirty_allDirty v s.cfg, ?_, ?_⟩
    · rw [hinval, State.forceAllDirty_of_started hv]
    · rw [hpal, State.loadPalette_of_started hv]

/-! ### Sprite origin -/

/-- Settles O51, by the two senses of y. -/
theorem spriteOriginShift : Obligations.SpriteOriginShift := by
  intro p f dx dy
  refine ⟨rfl, fun hsense => ?_, fun hsense => ?_, ?_⟩
  · simp only [spriteOrigin, hsense]
  · simp only [spriteOrigin, hsense]
  · cases hsense : p.ySense with
    | inverted => simp only [spriteOrigin, hsense, Prod.mk.injEq]; omega
    | direct => simp only [spriteOrigin, hsense, Prod.mk.injEq]; omega

/-! ### Video start and stop -/

theorem newVideo_sized (c : Config) (n : Nat) : (newVideo c n).sized c = true := by
  refine (VideoState.sized_iff _ _).mpr ⟨fun L => ?_, fun L => ?_, Surface.sized_build _ _ _, Surface.sized_build _ _ _⟩
  · cases L with
    | bg => exact List.length_replicate
    | fg => exact List.length_replicate
  · cases L with
    | bg => exact Surface.sized_build _ _ _
    | fg => exact Surface.sized_build _ _ _

theorem isDirty_newVideo (c : Config) (n : Nat) (L : Layer) (j : Nat) :
    (newVideo c n).isDirty L j = true ↔ j < c.cellCount L := isDirty_allDirty (newVideo c n) c L j

theorem at?_acc_newVideo (c : Config) (n : Nat) {y x : Nat} (hy : y < c.raster.visH) (hx : x < c.raster.visW) :
    Surface.at? (newVideo c n).acc y x = some none := by
  change Surface.at? (clearAcc c) y x = some none
  rw [clearAcc, Surface.at?_build, if_pos ⟨hy, hx⟩]

/-- VIDSTART by the success its allocation draws (44_compositor.md R660, 60_exceptions.md R830). -/
theorem exec_vidstart_ready {s : State} (hs : s.Ready) {ok : Bool} {allocs : List Bool} {draws : Nat}
    (hdraw : s.videoStop.drawAlloc = (ok, { s.videoStop with allocs := allocs, draws := draws })) :
    exec .vidstart s = .next { s with
      video := if ok then some (newVideo s.cfg draws) else none
      allocs := allocs
      draws := draws + 1
      result := some (if ok then .ok else .failed) } := by
  rw [exec_ready_of_finish (exec_vidstart s) hs, hdraw]
  rfl

/-- Settles O52: the two outcomes of the allocation, and both for a draw the host has not supplied. -/
theorem vidstartEffect : Obligations.VidstartEffect := by
  intro s hs started failed
  have hstart : ∀ n, exec .vidstart s = .next { s with
      video := some (newVideo s.cfg n)
      allocs := s.allocs.tail
      draws := n + 1
      result := some .ok } → ∃ s' w, exec .vidstart s = .next s' ∧ started s' w := fun n h =>
    ⟨_, newVideo s.cfg n, h, rfl, newVideo_sized s.cfg n, isDirty_newVideo s.cfg n, fun _ _ => at?_acc_newVideo s.cfg n⟩
  refine ⟨fun rest halloc => ?_, fun rest halloc => ?_, fun halloc => ?_⟩
  · refine hstart s.draws ?_
    rw [exec_vidstart_ready hs (ok := true) (allocs := rest) (draws := s.draws)
      (by simp only [State.drawAlloc, State.videoStop, halloc]), halloc]
    rfl
  · refine ⟨_, exec_vidstart_ready hs (ok := false) (allocs := rest) (draws := s.draws)
      (by simp only [State.drawAlloc, State.videoStop, halloc]), ?_⟩
    simp only [failed, halloc]
    rfl
  · have hrun := exec_vidstart_ready hs (ok := Config.allocDraw s.draws) (allocs := []) (draws := s.draws + 1)
      (by simp only [State.drawAlloc, State.videoStop, halloc])
    cases hok : Config.allocDraw s.draws with
    | true =>
      obtain ⟨s', w, h, hstarted⟩ := hstart (s.draws + 1) (by rw [hrun, hok, halloc]; rfl)
      exact ⟨s', h, .inl ⟨w, hstarted⟩⟩
    | false =>
      refine ⟨_, hrun, .inr ?_⟩
      simp only [failed, halloc, hok]
      rfl

/-- Settles O53. -/
theorem vidstopEffect : Obligations.VidstopEffect :=
  fun s hs => exec_ready_of_finish (exec_vidstop s) hs

/-! ### Reset, ticks and the mailbox -/

/-- Settles O54: the drawn registers, and ForceAllDirty on the buffers that stand. -/
theorem resetEffect : Obligations.ResetEffect := by
  intro s hs
  refine ⟨_, exec_ready_of_finish (exec_reset s) hs, rfl, fun hv => ?_, fun v hv => ?_⟩
  · exact congrArg (Option.map _) hv
  · exact ⟨_, congrArg (Option.map _) hv, rfl, rfl, rfl, isDirty_allDirty v s.cfg⟩

theorem State.tick_eq (s : State) (q : Sequencer) :
    s.tick q = { s with
      events := s.events ++ (if s.seqEnable q then [.intReq (Sequencer.target q) (seqKind s.cfg q)] else []) } := by
  unfold State.tick State.seqState
  cases s.seqEnable q with
  | true => rfl
  | false => simp [SeqState.onTick]

theorem exec_tick_eq {s : State} (hs : s.Ready) (q : Sequencer) :
    exec (.tick q) s = .next { s with
      events := s.events ++ (if s.seqEnable q then [.intReq (Sequencer.target q) (seqKind s.cfg q)] else [])
      result := some .ok } := by
  rw [exec_ready_of_finish (exec_tick s q) hs, s.tick_eq q]

/-- Settles O55. -/
theorem tickEffect : Obligations.TickEffect :=
  fun _ hs => ⟨exec_tick_eq hs .main, exec_tick_eq hs .sound⟩

/-- Settles O56: what a tick appends is read off its own bit, and each enable handler is one register update. -/
theorem sequencerIndependence : Obligations.SequencerIndependence := by
  refine ⟨fun q s s' hs hs' hcfg hbit => ⟨_, exec_tick_eq hs q, ?_⟩,
    fun s t cpu sp a d r rh wh arg hs hf hk h => ⟨?_, ?_⟩⟩
  · rw [exec_tick_eq hs' q, hbit, hcfg]
  · rintro rfl
    obtain rfl := Host.Outcome.next.inj ((exec_buswr_reg hs hf hk rfl d).symm.trans h)
    rfl
  · rintro rfl
    obtain rfl := Host.Outcome.next.inj ((exec_buswr_reg hs hf hk rfl d).symm.trans h)
    rfl

/-- In a checked configuration only the sound CPU's tables name W_SOUND_ACK (40_dispatch.md R441, 60_exceptions.md
R855). -/
theorem cpu_eq_sound_of_soundAck {c : Config} {cpu : Cpu} {sp : Space} {a : Addr} {r : AddressRange}
    {rh wh : BitVec 5} {arg : Nat} (hv : c.valid = true) (hf : findRange c cpu sp a = some r)
    (hk : r.kind = .reg rh wh arg) (hh : writeHandlerOf wh = some .soundAck) : cpu = .sound := by
  obtain ⟨hmem, -, -⟩ := findRange_spec hf
  obtain ⟨-, -, hside⟩ := Config.range_checked hv hmem
  cases cpu with
  | main => simp [AddressRange.mailboxSide, hk, hh] at hside
  | sound => rfl

/-- Settles O58: the two commands as updates, and the handler that is MBCLR. -/
theorem mailboxCommands : Obligations.MailboxCommands := by
  intro s hs
  refine ⟨fun v => ?_, exec_ready_of_finish (exec_mbclr s) hs, fun cpu sp a d r rh wh arg hf hk hwh => ?_⟩
  · rw [exec_ready_of_finish (exec_mbwr s v) hs, s.writeCommand_eq v]
  · subst hwh
    refine ⟨cpu_eq_sound_of_soundAck hs.cfgValid hf hk rfl, ?_⟩
    rw [exec_ready_of_finish (exec_mbclr s) hs]
    exact exec_buswr_reg hs hf hk rfl d

end Sys2Proof.Machine
end

section
/-! SUPPORT. The decoder (42_decoder.md): a pixel of a decoded block by its place in the unflipped tile, and its pen as a
sum of weighted ROM bits. O37 to O39. -/

namespace Sys2Proof.Machine

/-! ### Pens -/

theorem gfxBit_eq (c : Config) (g o : Nat) : gfxBit c g o = ((c.rom g (o / 8)).toNat >>> (7 - o % 8)) % 2 := by
  rw [gfxBit, Nat.and_one_is_mod]

theorem gfxBit_lt (c : Config) (g o : Nat) : gfxBit c g o < 2 := by
  rw [gfxBit_eq]
  exact Nat.mod_lt _ Nat.two_pos

/-- Bits put in by OR from the most significant down add up: each lands below all that stand (42_decoder.md R506). -/
theorem foldl_or_eq_sum {b : Nat → Nat} (hb : ∀ p, b p < 2) {n m : Nat} (hm : m ≤ n) :
    (List.range m).foldl (fun pen p => pen ||| (b p <<< (n - 1 - p))) 0 =
      ∑ p ∈ Finset.range m, b p * 2 ^ (n - 1 - p) := by
  induction m with
  | zero => rfl
  | succ m ih =>
    rw [List.range_succ, List.foldl_append, List.foldl_cons, List.foldl_nil, ih (by omega), Finset.sum_range_succ,
      Nat.shiftLeft_eq]
    have hdvd : 2 ^ (n - m) ∣ ∑ p ∈ Finset.range m, b p * 2 ^ (n - 1 - p) :=
      Finset.dvd_sum fun p hp => Dvd.dvd.mul_left (pow_dvd_pow 2 (by have := Finset.mem_range.mp hp; omega)) _
    obtain ⟨a, ha⟩ := hdvd
    have hlow : b m * 2 ^ (n - 1 - m) < 2 ^ (n - m) := by
      calc b m * 2 ^ (n - 1 - m) < 2 * 2 ^ (n - 1 - m) := Nat.mul_lt_mul_of_pos_right (hb m) (Nat.two_pow_pos _)
        _ = 2 ^ (n - m) := by rw [← Nat.pow_succ', show (n - 1 - m).succ = n - m by omega]
    rw [ha, Nat.two_pow_add_eq_or_of_lt hlow]

/-- A pen is the sum of its planes' bits by weight (42_decoder.md R500, R506). -/
theorem penAt_eq_sum (c : Config) (l : TileLayout) (base xi yi : Nat) :
    penAt c l base xi yi = ∑ p ∈ Finset.range l.bitsPerPixel,
      gfxBit c l.gfxRegion (bitOffset l base p xi yi) * 2 ^ (l.bitsPerPixel - 1 - p) :=
  foldl_or_eq_sum (b := fun p => gfxBit c l.gfxRegion (bitOffset l base p xi yi)) (fun _ => gfxBit_lt c _ _)
    (Nat.le_refl _)

theorem penAt_lt (c : Config) (l : TileLayout) (base xi yi : Nat) : penAt c l base xi yi < 2 ^ l.bitsPerPixel := by
  unfold penAt
  have hall : ∀ p ∈ List.range l.bitsPerPixel, p < l.bitsPerPixel := fun p => List.mem_range.mp
  have hstart : 0 < 2 ^ l.bitsPerPixel := Nat.two_pow_pos _
  revert hall hstart
  generalize List.range l.bitsPerPixel = ps
  generalize 0 = pen
  intro hall hpen
  induction ps generalizing pen with
  | nil => exact hpen
  | cons p ps ih =>
    have hp : p < l.bitsPerPixel := hall p List.mem_cons_self
    refine ih _ (fun q hq => hall q (List.mem_cons_of_mem _ hq)) (Nat.or_lt_two_pow hpen ?_)
    calc gfxBit c l.gfxRegion (bitOffset l base p xi yi) <<< (l.bitsPerPixel - 1 - p)
        = gfxBit c l.gfxRegion (bitOffset l base p xi yi) * 2 ^ (l.bitsPerPixel - 1 - p) := Nat.shiftLeft_eq _ _
      _ < 2 * 2 ^ (l.bitsPerPixel - 1 - p) := Nat.mul_lt_mul_of_pos_right (gfxBit_lt c _ _) (Nat.two_pow_pos _)
      _ = 2 ^ (l.bitsPerPixel - p) := by
        rw [← Nat.pow_succ', show (l.bitsPerPixel - 1 - p).succ = l.bitsPerPixel - p by omega]
      _ ≤ 2 ^ l.bitsPerPixel := Nat.pow_le_pow_right Nat.two_pos (Nat.sub_le _ _)

/-! ### Pixels -/

/-- The pixel of column `xi`, row `yi` of the unflipped tile `t` of layout `k` (42_decoder.md R500, R507). -/
def tilePixel (cfg : Config) (k t c xi yi : Nat) : PixelRec :=
  let pen := penAt cfg (cfg.layout k) (t % (cfg.layout k).tileCount * (cfg.layout k).bytesPerTile * 8) xi yi
  { pen := pen, index := c + pen }

theorem at?_decodeTile (cfg : Config) (k t c : Nat) (fx fy : Bool) (y x : Nat) :
    Surface.at? (decodeTile cfg k t c fx fy) y x =
      if y < (cfg.layout k).tileHeight ∧ x < (cfg.layout k).tileWidth then
        some (tilePixel cfg k t c (flipIndex fx (cfg.layout k).tileWidth x) (flipIndex fy (cfg.layout k).tileHeight y))
      else none :=
  Surface.at?_build _ _ _ _ _

theorem flipIndex_mirror {n i : Nat} (hi : i < n) (flip : Bool) :
    flipIndex flip n (n - 1 - i) = flipIndex (!flip) n i := by
  cases flip with
  | true => simp [flipIndex]; omega
  | false => rfl

theorem flipIndex_lt {n i : Nat} (hi : i < n) (flip : Bool) : flipIndex flip n i < n := by
  unfold flipIndex
  split
  · omega
  · exact hi

/-- Settles O37: the pixel by its place, and its pen as the sum of the planes' bits. -/
theorem decodedPixel : Obligations.DecodedPixel := by
  intro cfg k t c fx fy y x l xi yi off pen
  have hpen : pen = penAt cfg l (t % l.tileCount * l.bytesPerTile * 8) xi yi := by
    rw [penAt_eq_sum]
    exact Finset.sum_congr rfl fun p _ => by rw [gfxBit_eq]; rfl
  rw [at?_decodeTile, hpen]
  rfl

/-- Settles O38: the pixel exists only inside the tile, where its pen is the pen of its place. -/
theorem penFitsLayout : Obligations.PenFitsLayout := by
  intro cfg k t c fx fy y x p h
  rw [at?_decodeTile] at h
  split at h
  · obtain rfl := Option.some.inj h
    exact ⟨penAt_lt _ _ _ _ _, rfl⟩
  · cases h

/-- Settles O39: the place a pixel is read from under a flip, and a place counted from the other end. -/
theorem flipReversesPixels : Obligations.FlipReversesPixels := by
  intro cfg k t c fx fy y x hy hx
  have hx' : (cfg.layout k).tileWidth - 1 - x < (cfg.layout k).tileWidth := by omega
  have hy' : (cfg.layout k).tileHeight - 1 - y < (cfg.layout k).tileHeight := by omega
  refine ⟨?_, ?_, ?_⟩
  · have hmoved := at?_decodeTile cfg k t c false false (flipIndex fy (cfg.layout k).tileHeight y)
      (flipIndex fx (cfg.layout k).tileWidth x)
    rw [if_pos ⟨flipIndex_lt hy fy, flipIndex_lt hx fx⟩] at hmoved
    rw [at?_decodeTile, if_pos ⟨hy, hx⟩]
    exact hmoved.symm
  · rw [at?_decodeTile, at?_decodeTile, if_pos ⟨hy, hx'⟩, if_pos ⟨hy, hx⟩, flipIndex_mirror hx]
  · rw [at?_decodeTile, at?_decodeTile, if_pos ⟨hy', hx⟩, if_pos ⟨hy, hx⟩, flipIndex_mirror hy]

end Sys2Proof.Machine
end

section
/-! SUPPORT. The dirty tracker (43_dirty.md): what a flush leaves of the flags and of the surface of its layer, and the
surface it leaves where every clean cell was shown. O41, O42 and O44. -/

namespace Sys2Proof.Machine

section
variable {s t : State} {v : VideoState} {L : Layer}

/-! ### Flags -/

theorem VideoState.isDirty_of_ge {c : Config} (hv : v.sized c = true) {j : Nat} (hj : c.cellCount L ≤ j) :
    v.isDirty L j = false := by
  obtain ⟨hlen, -⟩ := (v.sized_iff c).mp hv
  rw [VideoState.isDirty, List.getElem?_eq_none (by rw [hlen L]; exact hj)]
  rfl

theorem VideoState.sized_setDirty {c : Config} (hv : v.sized c = true) (L : Layer) (i : Nat) (b : Bool) :
    (v.setDirty L i b).sized c = true := by
  obtain ⟨hlen, hrest⟩ := (v.sized_iff c).mp hv
  exact ((v.setDirty L i b).sized_iff c).mpr ⟨fun L' => (v.setDirty_length L L' i b).trans (hlen L'), hrest⟩

theorem VideoState.sized_allDirty {c : Config} (hv : v.sized c = true) :
    VideoState.sized { v with dirty := allDirty c } c = true := by
  obtain ⟨-, hrest⟩ := (v.sized_iff c).mp hv
  obtain ⟨hlen, -⟩ := (VideoState.sized_iff _ c).mp (newVideo_sized c 0)
  exact (VideoState.sized_iff _ c).mpr ⟨hlen, hrest⟩

theorem State.sized_flushLayer (hv : v.sized s.cfg = true) : (s.flushLayer L v).sized s.cfg = true :=
  (s.flushLayer_spec L hv).1

theorem State.cache_flushLayer_sized (hv : v.sized s.cfg = true) (L' : Layer) :
    Surface.sized ((s.flushLayer L v).cache.get L') (s.cfg.surfaceH L') (s.cfg.surfaceW L') = true := by
  obtain ⟨-, hcaches, -⟩ := (VideoState.sized_iff _ s.cfg).mp (State.sized_flushLayer (L := L) hv)
  exact hcaches L'

/-- A flush cleans every flag of its layer and no other (43_dirty.md R560). -/
theorem State.isDirty_flushLayer (hv : v.sized s.cfg = true) (L' : Layer) (j : Nat) :
    (s.flushLayer L v).isDirty L' j = if L' = L then false else v.isDirty L' j := by
  obtain ⟨-, -, -, -, hflag, -⟩ := s.flushLayer_spec L hv
  rw [hflag]
  by_cases hL : L' = L
  · subst hL
    by_cases hj : j < s.cfg.cellCount L'
    · rw [if_pos ⟨rfl, hj⟩, if_pos rfl]
    · rw [if_neg fun h => hj h.2, if_pos rfl, VideoState.isDirty_of_ge hv (Nat.le_of_not_lt hj)]
  · rw [if_neg fun h => hL h.1, if_neg hL]

theorem State.cache_flushLayer_other (hv : v.sized s.cfg = true) {L' : Layer} (hL : L' ≠ L) :
    (s.flushLayer L v).cache.get L' = v.cache.get L' := by
  obtain ⟨-, -, -, hother, -⟩ := s.flushLayer_spec L hv
  exact hother L' hL

/-! ### Cells -/

/-- Every clean cell of the layer is shown: the cache invariant of one layer (10_state.md R144). -/
def State.LayerShown (s : State) (v : VideoState) (L : Layer) : Prop :=
  ∀ i, i < s.cfg.cellCount L → v.isDirty L i = false → s.cellShown v L i

/-- A flush shows the cells that were dirty (43_dirty.md R561). -/
theorem State.cellShown_flushLayer (hv : v.sized s.cfg = true) {j : Nat} (hj : j < s.cfg.cellCount L)
    (hd : v.isDirty L j = true) : s.cellShown (s.flushLayer L v) L j := by
  intro y x hy hx
  obtain ⟨-, -, -, -, -, hcell⟩ := s.flushLayer_spec L hv
  rw [hcell j hj y x hy hx, if_pos hd]

/-- A flush leaves the place of a cell that was clean (43_dirty.md R560). -/
theorem State.cache_flushLayer_clean (hv : v.sized s.cfg = true) {j : Nat} (hj : j < s.cfg.cellCount L)
    (hd : v.isDirty L j = false) {y x : Nat} (hy : y < (s.cfg.layerLayout L).tileHeight)
    (hx : x < (s.cfg.layerLayout L).tileWidth) :
    Surface.at? ((s.flushLayer L v).cache.get L)
        (j / (s.cfg.layers.get L).cols * (s.cfg.layerLayout L).tileHeight + y)
        (j % (s.cfg.layers.get L).cols * (s.cfg.layerLayout L).tileWidth + x) =
      Surface.at? (v.cache.get L) (j / (s.cfg.layers.get L).cols * (s.cfg.layerLayout L).tileHeight + y)
        (j % (s.cfg.layers.get L).cols * (s.cfg.layerLayout L).tileWidth + x) := by
  obtain ⟨-, -, -, -, -, hcell⟩ := s.flushLayer_spec L hv
  rw [hcell j hj y x hy hx, if_neg (by rw [hd]; exact Bool.false_ne_true)]

/-- Where every clean cell was shown, a flush leaves every cell shown. -/
theorem State.LayerShown.flushed (h : s.LayerShown v L) (hv : v.sized s.cfg = true) {j : Nat}
    (hj : j < s.cfg.cellCount L) : s.cellShown (s.flushLayer L v) L j := by
  cases hd : v.isDirty L j with
  | true => exact State.cellShown_flushLayer hv hj hd
  | false =>
    intro y x hy hx
    exact (State.cache_flushLayer_clean hv hj hd hy hx).trans (h j hj hd y x hy hx)

/-- Every pixel of a layer's surface after such a flush is the one a fresh decode gives (44_compositor.md R651). -/
theorem State.LayerShown.at?_flushLayer (h : s.LayerShown v L) (hv : v.sized s.cfg = true) {y x : Nat}
    (hy : y < s.cfg.surfaceH L) (hx : x < s.cfg.surfaceW L) :
    Surface.at? ((s.flushLayer L v).cache.get L) y x = some (s.freshPixel L y x) := by
  obtain ⟨hcell, hrow, hcol, hY, hX⟩ := cell_cover hy hx
  have hshown := h.flushed hv hcell _ _ hrow hcol
  rw [hY, hX] at hshown
  obtain ⟨p, hp⟩ := Option.isSome_iff_exists.mp ((s.at?_cellBlock_isSome L
    (y / (s.cfg.layerLayout L).tileHeight * (s.cfg.layers.get L).cols + x / (s.cfg.layerLayout L).tileWidth)
    (y % (s.cfg.layerLayout L).tileHeight) (x % (s.cfg.layerLayout L).tileWidth)).mpr ⟨hrow, hcol⟩)
  rw [hshown, hp, State.freshPixel, Surface.getD, hp]
  rfl

theorem State.Inv.sized (h : s.Inv) (hv : s.video = some v) : v.sized s.cfg = true := h.videoSized v hv

theorem State.CacheInv.layerShown (h : s.CacheInv) (hv : s.video = some v) (L : Layer) : s.LayerShown v L :=
  h v hv L

end

/-- Settles O41: the flush of the layer, flags and cells. -/
theorem flushdirtyEffect : Obligations.FlushdirtyEffect := by
  intro s L v hinv hf hv
  have hsz := hinv.sized hv
  obtain ⟨hout, hacc⟩ := s.flushLayer_frame L v
  exact ⟨_, exec_flushdirty_started (hinv.ready hf) hv L, hout, hacc, fun L' hL => State.cache_flushLayer_other hsz hL,
    State.isDirty_flushLayer hsz, fun j hj => ⟨State.cellShown_flushLayer hsz hj,
      fun hd y x hy hx => State.cache_flushLayer_clean hsz hj hd hy hx⟩⟩

/-- A write to a tilemap range of a started video marks the cell of its offset (40_dispatch.md R407). -/
theorem exec_buswr_tilemap {s t : State} {v : VideoState} {cpu : Cpu} {sp : Space} {a : Addr} {d : Byte}
    {r : AddressRange} {L : Layer} {base : Nat} (hinv : s.Inv) (hf : s.fault = none) (hv : s.video = some v)
    (hr : findRange s.cfg cpu sp a = some r) (hk : r.kind = .vid (.tilemap L) base)
    (h : exec (.buswr cpu sp a d) s = .next t) :
    t.cfg = s.cfg ∧ t.fault = none ∧
      t.video = some (v.setDirty L ((base + (a.toNat - r.start.toNat)) % s.cfg.cellCount L) true) := by
  have hrun := exec_buswr_store (hinv.ready hf) hr (not_reg_of_vid hk) (hinv.locate_tilemap hr hk) d
  obtain rfl := Host.Outcome.next.inj (hrun.symm.trans h)
  refine ⟨rfl, hf, ?_⟩
  rw [← Nat.mod_mod (base + (a.toNat - r.start.toNat))]
  exact (congrArg (Option.map _) hv).trans (by rw [Nat.mod_mod]; rfl)

/-- Settles O42: the write marks its cell, and the flush after it re-decodes what is dirty. -/
theorem videoWriteRedecodesOneCell : Obligations.VideoWriteRedecodesOneCell := by
  intro s t cpu sp a d r L base v hinv hf hv hr hk h
  obtain ⟨hcfg, hfault, ht⟩ := exec_buswr_tilemap hinv hf hv hr hk h
  have hcell : (base + (a.toNat - r.start.toNat)) % s.cfg.cellCount L < s.cfg.cellCount L :=
    Nat.mod_lt _ (Config.cellCount_pos hinv.cfgValid L)
  have hlen := hinv.mod_cellCount_lt hv L (base + (a.toNat - r.start.toNat))
  have hready : t.Ready := ⟨hcfg.symm ▸ hinv.cfgValid, hfault⟩
  have hsz := hinv.sized hv
  generalize (base + (a.toNat - r.start.toNat)) % s.cfg.cellCount L = i at *
  rw [← hcfg] at hcell hsz ⊢
  have hflag := v.isDirty_setDirty true hlen
  have hsz' := VideoState.sized_setDirty hsz L i true
  refine ⟨_, _, exec_flushdirty_started hready ht L, rfl, fun v' hv' L' j => ?_, ?_, fun j => ?_,
    fun j hj hne hd y x hy hx => ?_⟩
  · obtain rfl := Option.some.inj (ht.symm.trans hv')
    rw [hflag]
    by_cases hhit : L' = L ∧ j = i
    · simp [hhit]
    · simp [hhit]
  · exact State.cellShown_flushLayer hsz' hcell (by rw [hflag, if_pos ⟨rfl, rfl⟩])
  · rw [State.isDirty_flushLayer hsz', if_pos rfl]
  · exact State.cache_flushLayer_clean hsz' hj (by rw [hflag, if_neg fun h => hne h.2, hd]) hy hx

/-- Settles O44: before and after PALLOAD the flush leaves the surface a fresh decode gives, which the palette does not
enter. -/
theorem palloadKeepsIndices : Obligations.PalloadKeepsIndices := by
  intro s t u u' L w w' hinv hcache hf ht hu hw hu' hw'
  obtain rfl := Host.Outcome.next.inj ((exec_ready_of_finish (exec_palload s) (hinv.ready hf)).symm.trans ht)
  cases hv : s.video with
  | none =>
    obtain rfl := Host.Outcome.next.inj ((exec_flushdirty_stopped (hinv.ready hf) hv L).symm.trans hu')
    cases hv.symm.trans hw'
  | some v =>
    obtain rfl := Host.Outcome.next.inj ((exec_flushdirty_started (hinv.ready hf) hv L).symm.trans hu')
    obtain rfl := Option.some.inj hw'
    have hall : ({ s.loadPalette with result := some .ok } : State).video = some { v with dirty := allDirty s.cfg } :=
      congrArg (Option.map _) hv
    obtain rfl := Host.Outcome.next.inj ((exec_flushdirty_started (s := { s.loadPalette with result := some .ok })
      ⟨hinv.cfgValid, hf⟩ hall L).symm.trans hu)
    obtain rfl := Option.some.inj hw
    have hsz := hinv.sized hv
    have hsz' := VideoState.sized_allDirty hsz
    have hshown : State.LayerShown { s.loadPalette with result := some .ok } { v with dirty := allDirty s.cfg } L :=
      fun i hi hd => absurd ((isDirty_allDirty v s.cfg L i).mpr hi) (by rw [hd]; exact Bool.false_ne_true)
    refine Surface.ext_sized (State.cache_flushLayer_sized (s := { s.loadPalette with result := some .ok }) hsz' L)
      (State.cache_flushLayer_sized hsz L) fun y x hy hx => ?_
    rw [hshown.at?_flushLayer hsz' hy hx, (hcache.layerShown hv L).at?_flushLayer hsz hy hx]
    rfl

end Sys2Proof.Machine
end

section
/-! SUPPORT. One frame (44_compositor.md): the buffers it leaves as one expression for each target of the sprite and text
stages, and from it every pixel. O45 to O50. -/

namespace Sys2Proof.Machine

/-! ### Flushing reads and writes neither OUT nor ACC -/

/-- The buffers with other contents of OUT and ACC. -/
def VideoState.withTargets (v : VideoState) (out : Surface Nat) (acc : Surface (Option Nat)) : VideoState :=
  { v with out := out, acc := acc }

section
variable (s : State) (v : VideoState) (out : Surface Nat) (acc : Surface (Option Nat))

theorem State.flushCell_withTargets (L : Layer) (i : Nat) :
    s.flushCell L (v.withTargets out acc) i = (s.flushCell L v i).withTargets out acc := by
  have hdirty : (v.withTargets out acc).isDirty L i = v.isDirty L i := rfl
  unfold State.flushCell
  rw [hdirty]
  split
  · rfl
  · rfl

theorem State.flushLayer_withTargets (L : Layer) :
    s.flushLayer L (v.withTargets out acc) = (s.flushLayer L v).withTargets out acc := by
  unfold State.flushLayer
  generalize List.range (s.cfg.cellCount L) = l
  induction l generalizing v with
  | nil => rfl
  | cons i l ih => rw [List.foldl_cons, List.foldl_cons, s.flushCell_withTargets, ih]

/-! ### The frame as one expression -/

/-- The buffers after the background stage's flush: BG is flushed when the background is enabled (R610, R611). -/
def State.backgroundFlush : VideoState := if s.bgEnable then s.flushLayer .bg v else v

/-- The buffers after both flushes of a frame (43_dirty.md R563, 44_compositor.md R630). -/
def State.frameFlush : VideoState := s.flushLayer .fg (s.backgroundFlush v)

/-- What the background stage draws (44_compositor.md R610, R611). -/
def State.backgroundSurface : Surface Nat :=
  Surface.build s.cfg.raster.visH s.cfg.raster.visW fun y x =>
    if s.bgEnable then s.backgroundIndex (s.flushLayer .bg v).cache.bg y x else s.cfg.raster.bgBlankIndex

/-- The sprites and then the text over a target (44_compositor.md R620, R630). -/
def State.plotStages {α : Type} (ink : Nat → α) (T : Surface α) : Surface α :=
  s.textPass ink (s.frameFlush v).cache.fg (s.spritePass ink T)

theorem State.backgroundPass_eq :
    s.backgroundPass v = (s.backgroundFlush v).withTargets (s.backgroundSurface v) v.acc := by
  unfold State.backgroundPass State.backgroundFlush State.backgroundSurface
  cases s.bgEnable with
  | true =>
    obtain ⟨-, hacc⟩ := s.flushLayer_frame .bg v
    simp only [if_true, VideoState.withTargets, ← hacc]
  | false => rfl

/-- Without overdraw the stages draw over the background in OUT, and ACC is not touched (44_compositor.md R602). -/
theorem State.frame_of_direct (h : s.overdraw = false) :
    s.frame v = (s.frameFlush v).withTargets (s.plotStages v id (s.backgroundSurface v)) v.acc := by
  have hsprite : s.spriteStage (s.backgroundPass v) =
      (s.backgroundFlush v).withTargets (s.spritePass id (s.backgroundSurface v)) v.acc := by
    rw [s.backgroundPass_eq v, State.spriteStage, h]
    rfl
  have htext : s.foregroundStage (s.spriteStage (s.backgroundPass v)) =
      (s.frameFlush v).withTargets (s.plotStages v id (s.backgroundSurface v)) v.acc := by
    rw [hsprite, State.foregroundStage, s.flushLayer_withTargets, h]
    rfl
  rw [State.frame, htext, State.compositeStage, h]
  rfl

/-- With overdraw the stages draw into ACC, which is then laid over the background (44_compositor.md R602, R635). -/
theorem State.frame_of_overdraw (h : s.overdraw = true) :
    s.frame v = (s.frameFlush v).withTargets
      (Surface.build s.cfg.raster.visH s.cfg.raster.visW fun y x =>
        (Surface.getD (s.plotStages v some v.acc) y x none).getD (Surface.getD (s.backgroundSurface v) y x 0))
      (s.plotStages v some v.acc) := by
  have hsprite : s.spriteStage (s.backgroundPass v) =
      (s.backgroundFlush v).withTargets (s.backgroundSurface v) (s.spritePass some v.acc) := by
    rw [s.backgroundPass_eq v, State.spriteStage, h]
    rfl
  have htext : s.foregroundStage (s.spriteStage (s.backgroundPass v)) =
      (s.frameFlush v).withTargets (s.backgroundSurface v) (s.plotStages v some v.acc) := by
    rw [hsprite, State.foregroundStage, s.flushLayer_withTargets, h]
    rfl
  rw [State.frame, htext, State.compositeStage, h]
  rfl

/-- A frame is drawn in the buffers it is given, whatever buffers stand in the state. -/
theorem State.frame_withVideo (o : Option VideoState) : State.frame { s with video := o } v = s.frame v := by
  obtain h | h := Bool.eq_false_or_eq_true s.overdraw
  · rw [s.frame_of_overdraw v h]
    exact State.frame_of_overdraw { s with video := o } v h
  · rw [s.frame_of_direct v h]
    exact State.frame_of_direct { s with video := o } v h

theorem State.frame_cache : (s.frame v).cache = (s.frameFlush v).cache := by
  cases h : s.overdraw with
  | false => rw [s.frame_of_direct v h]; rfl
  | true => rw [s.frame_of_overdraw v h]; rfl

theorem State.frame_dirty : (s.frame v).dirty = (s.frameFlush v).dirty := by
  cases h : s.overdraw with
  | false => rw [s.frame_of_direct v h]; rfl
  | true => rw [s.frame_of_overdraw v h]; rfl

theorem State.isDirty_frame (L : Layer) (j : Nat) : (s.frame v).isDirty L j = (s.frameFlush v).isDirty L j := by
  unfold VideoState.isDirty
  rw [s.frame_dirty v]

end

/-! ### Sizes and flags -/

section
variable {s : State} {v : VideoState}

theorem State.sized_backgroundFlush (hv : v.sized s.cfg = true) : (s.backgroundFlush v).sized s.cfg = true := by
  unfold State.backgroundFlush
  split
  · exact State.sized_flushLayer hv
  · exact hv

theorem State.sized_frameFlush (hv : v.sized s.cfg = true) : (s.frameFlush v).sized s.cfg = true :=
  State.sized_flushLayer (State.sized_backgroundFlush hv)

theorem State.sized_plotStages {α : Type} (s : State) (v : VideoState) (ink : Nat → α) (T : Surface α) (h w : Nat) :
    Surface.sized (s.plotStages v ink T) h w = Surface.sized T h w := by
  rw [State.plotStages, s.textPass_sized, s.spritePass_sized]

/-- A frame keeps the size of every buffer (10_state.md R140 to R143). -/
theorem State.sized_frame (hv : v.sized s.cfg = true) : (s.frame v).sized s.cfg = true := by
  obtain ⟨hlen, hcache, -, -⟩ := (VideoState.sized_iff _ s.cfg).mp (State.sized_frameFlush hv)
  obtain ⟨-, -, -, hacc⟩ := (v.sized_iff s.cfg).mp hv
  cases h : s.overdraw with
  | false =>
    rw [s.frame_of_direct v h]
    refine (VideoState.sized_iff _ s.cfg).mpr ⟨hlen, hcache, ?_, hacc⟩
    exact (s.sized_plotStages v id _ _ _).trans (Surface.sized_build _ _ _)
  | true =>
    rw [s.frame_of_overdraw v h]
    refine (VideoState.sized_iff _ s.cfg).mpr ⟨hlen, hcache, Surface.sized_build _ _ _, ?_⟩
    exact (s.sized_plotStages v some _ _ _).trans hacc

theorem State.isDirty_frame_fg (hv : v.sized s.cfg = true) (j : Nat) : (s.frame v).isDirty .fg j = false := by
  rw [s.isDirty_frame v, State.frameFlush, State.isDirty_flushLayer (State.sized_backgroundFlush hv), if_pos rfl]

theorem State.isDirty_frame_bg (hv : v.sized s.cfg = true) (j : Nat) :
    (s.frame v).isDirty .bg j = if s.bgEnable then false else v.isDirty .bg j := by
  rw [s.isDirty_frame v, State.frameFlush, State.isDirty_flushLayer (State.sized_backgroundFlush hv), if_neg nofun,
    State.backgroundFlush]
  split
  · rw [State.isDirty_flushLayer hv, if_pos rfl]
  · rfl

theorem State.cache_frame_bg (hv : v.sized s.cfg = true) :
    (s.frame v).cache.get .bg = (s.backgroundFlush v).cache.get .bg := by
  rw [s.frame_cache v, State.frameFlush,
    State.cache_flushLayer_other (L := .fg) (L' := .bg) (State.sized_backgroundFlush hv) (by decide)]

/-! ### The layers a frame reads -/

/-- A flush of the other layer leaves what is shown of this one. -/
theorem State.LayerShown.flush_other {L L' : Layer} (h : s.LayerShown v L) (hv : v.sized s.cfg = true) (hL : L ≠ L') :
    s.LayerShown (s.flushLayer L' v) L := by
  intro i hi hd y x hy hx
  rw [State.isDirty_flushLayer hv, if_neg hL] at hd
  rw [State.cache_flushLayer_other hv hL]
  exact h i hi hd y x hy hx

theorem State.LayerShown.backgroundFlush (h : s.LayerShown v .fg) (hv : v.sized s.cfg = true) :
    s.LayerShown (s.backgroundFlush v) .fg := by
  unfold State.backgroundFlush
  split
  · exact h.flush_other hv nofun
  · exact h

/-- A checked configuration gives every layer a surface with at least one pixel (60_exceptions.md R854). -/
theorem Config.surface_pos {c : Config} (hv : c.valid = true) (L : Layer) : 0 < c.surfaceH L ∧ 0 < c.surfaceW L := by
  have hlayer := Config.valid_layer hv L
  have hlayouts := Config.valid_layouts hv
  simp only [LayerCfg.typed, Bool.and_eq_true, decide_eq_true_eq] at hlayer
  simp only [Config.layoutsValid, Bool.and_eq_true, decide_eq_true_eq, List.all_eq_true] at hlayouts
  obtain ⟨⟨hcols, hrows⟩, -⟩ := hlayer
  obtain ⟨⟨⟨⟨-, hall⟩, hbg⟩, hfg⟩, -⟩ := hlayouts
  have hk : (c.layers.get L).layoutOf < c.layouts.length := by
    cases L with
    | bg => exact hbg
    | fg => exact hfg
  have hget : c.layerLayout L = c.layouts[(c.layers.get L).layoutOf] := by
    rw [Config.layerLayout, Config.layout, List.getElem?_eq_getElem hk]
    rfl
  have htile := hall _ (List.getElem_mem hk)
  rw [← hget] at htile
  simp only [TileLayout.valid, Bool.and_eq_true, decide_eq_true_eq] at htile
  obtain ⟨⟨⟨⟨⟨⟨⟨⟨hw, hh⟩, -⟩, -⟩, -⟩, -⟩, -⟩, -⟩, -⟩ := htile
  exact ⟨Nat.mul_pos hrows hh, Nat.mul_pos hcols hw⟩

/-- The background stage draws the pixel a fresh decode gives (44_compositor.md R610, R651). -/
theorem State.at?_backgroundSurface (hc : s.cfg.valid = true) (hv : v.sized s.cfg = true)
    (hshown : s.LayerShown v .bg) {y x : Nat} (hy : y < s.cfg.raster.visH) (hx : x < s.cfg.raster.visW) :
    Surface.at? (s.backgroundSurface v) y x = some (s.backgroundPixel y x) := by
  obtain ⟨hH, hW⟩ := Config.surface_pos hc .bg
  have hpix := hshown.at?_flushLayer hv (Nat.mod_lt (y + s.scrollY) hH) (Nat.mod_lt (x + s.scrollX) hW)
  have hget : (s.flushLayer .bg v).cache.bg = (s.flushLayer .bg v).cache.get .bg := rfl
  rw [State.backgroundSurface, Surface.at?_build, if_pos ⟨hy, hx⟩, State.backgroundPixel, State.backgroundIndex,
    Surface.getD, hget, hpix]
  rfl

/-! ### What a frame plots -/

/-- The colour index the text loop puts on a raster position from the decoded surface `cache` (R630, R631). -/
def State.textPlot (s : State) (cache : Surface PixelRec) (y x : Nat) : Option Nat :=
  if y < s.cfg.surfaceH .fg ∧ x < s.cfg.surfaceW .fg then
    if (Surface.getD cache y x default).pen ≠ s.cfg.raster.transPenFg then
      some (Surface.getD cache y x default).index else none
  else none

/-- What the sprite and text stages put on a raster position. -/
def State.framePlot (s : State) (v : VideoState) (y x : Nat) : Option Nat :=
  (s.textPlot (s.frameFlush v).cache.fg y x).or (s.topSprite y x s.cfg.sprite.spriteCount)

theorem State.at?_plotStages {α : Type} (s : State) (v : VideoState) (ink : Nat → α) (T : Surface α) {y x : Nat}
    (hy : y < s.cfg.raster.visH) (hx : x < s.cfg.raster.visW) :
    Surface.at? (s.plotStages v ink T) y x = (Surface.at? T y x).map (inked ink (s.framePlot v y x)) := by
  rw [State.plotStages, s.at?_textPass _ _ _ y x hy hx, s.at?_spritePass _ _ y x hy hx, Option.map_map]
  congr 1
  funext old
  exact inked_inked ink _ _ old

/-- Where every clean cell of FG is shown, a frame plots what a fresh decode gives (44_compositor.md R651). -/
theorem State.framePlot_eq (hv : v.sized s.cfg = true) (hshown : s.LayerShown v .fg) (y x : Nat) :
    s.framePlot v y x = s.plottedPixel y x := by
  unfold State.framePlot State.plottedPixel State.textPlot State.textPixel
  congr 1
  split
  · next hin =>
    have hpix : Surface.at? (s.frameFlush v).cache.fg y x = some (s.freshPixel .fg y x) :=
      (hshown.backgroundFlush hv).at?_flushLayer (State.sized_backgroundFlush hv) hin.1 hin.2
    rw [Surface.getD, hpix, Option.getD_some]
  · rfl

theorem inked_id (p : Option Nat) (old : Nat) : inked id p old = p.getD old := by cases p <;> rfl
theorem inked_opaque (p old : Option Nat) : inked some p old = p.or old := by cases p <;> rfl

theorem Surface.at?_of_sized {α : Type} {S : Surface α} {h w y x : Nat} (hS : Surface.sized S h w = true) (hy : y < h)
    (hx : x < w) (d : α) : Surface.at? S y x = some (Surface.getD S y x d) := by
  obtain ⟨a, ha⟩ := Option.isSome_iff_exists.mp ((Surface.at?_isSome hS).mpr ⟨hy, hx⟩)
  rw [Surface.getD, ha]
  rfl

/-- An element of ACC after a frame in overdraw mode: what the frame plots, else what stood (44_compositor.md R636). -/
theorem State.at?_frame_acc (hover : s.overdraw = true) (hv : v.sized s.cfg = true) {y x : Nat}
    (hy : y < s.cfg.raster.visH) (hx : x < s.cfg.raster.visW) :
    Surface.at? (s.frame v).acc y x = some ((s.framePlot v y x).or (Surface.getD v.acc y x none)) := by
  obtain ⟨-, -, -, hacc⟩ := (v.sized_iff s.cfg).mp hv
  rw [s.frame_of_overdraw v hover]
  calc Surface.at? (s.plotStages v some v.acc) y x
      = (Surface.at? v.acc y x).map (inked some (s.framePlot v y x)) := s.at?_plotStages v some v.acc hy hx
    _ = some ((s.framePlot v y x).or (Surface.getD v.acc y x none)) := by
      rw [Surface.at?_of_sized hacc hy hx none, Option.map_some, inked_opaque]

/-- A pixel of OUT after a frame in overdraw mode: ACC over the background (44_compositor.md R635). -/
theorem State.at?_frame_out_of_overdraw (hover : s.overdraw = true) (hc : s.cfg.valid = true)
    (hv : v.sized s.cfg = true) (hshown : s.LayerShown v .bg) {y x : Nat} (hy : y < s.cfg.raster.visH)
    (hx : x < s.cfg.raster.visW) : Surface.at? (s.frame v).out y x =
      some (((s.framePlot v y x).or (Surface.getD v.acc y x none)).getD (s.backgroundPixel y x)) := by
  have hacc := State.at?_frame_acc hover hv hy hx
  rw [s.frame_of_overdraw v hover] at hacc ⊢
  have hacc' : Surface.getD (s.plotStages v some v.acc) y x none = _ := congrArg (fun o => Option.getD o none) hacc
  have hback : Surface.getD (s.backgroundSurface v) y x 0 = _ :=
    congrArg (fun o => Option.getD o 0) (State.at?_backgroundSurface hc hv hshown hy hx)
  refine (Surface.at?_build _ _ _ y x).trans ?_
  rw [if_pos ⟨hy, hx⟩, hacc', hback]
  rfl

/-- A pixel of OUT after a frame without overdraw: what the frame plots, else the background (44_compositor.md R602). -/
theorem State.at?_frame_out_of_direct (hdirect : s.overdraw = false) (hc : s.cfg.valid = true)
    (hv : v.sized s.cfg = true) (hshown : s.LayerShown v .bg) {y x : Nat} (hy : y < s.cfg.raster.visH)
    (hx : x < s.cfg.raster.visW) :
    Surface.at? (s.frame v).out y x = some ((s.framePlot v y x).getD (s.backgroundPixel y x)) := by
  rw [s.frame_of_direct v hdirect]
  calc Surface.at? (s.plotStages v id (s.backgroundSurface v)) y x
      = (Surface.at? (s.backgroundSurface v) y x).map (inked id (s.framePlot v y x)) := s.at?_plotStages v id _ hy hx
    _ = some ((s.framePlot v y x).getD (s.backgroundPixel y x)) := by
      rw [State.at?_backgroundSurface hc hv hshown hy hx, Option.map_some, inked_id]

/-- A pixel of the presented surface whose colour index has a palette entry (44_compositor.md R650). -/
theorem State.at?_presentSurface {out : Surface Nat} {y x i : Nat} {c : RGB} (hy : y < s.cfg.raster.visH)
    (hx : x < s.cfg.raster.visW) (hout : Surface.at? out y x = some i) (hc : s.paletteEntry i = some c) :
    Surface.at? (s.presentSurface out) y x = some c := by
  rw [State.presentSurface, Surface.at?_build, if_pos ⟨hy, hx⟩, Surface.getD, hout, Option.getD_some, hc]
  rfl

end

/-! ### The statements -/

/-- Settles O45: each pixel by the expression of a frame without overdraw, the layers decoded afresh. -/
theorem frameWithoutOverdraw : Obligations.FrameWithoutOverdraw := by
  intro s v hinv hcache hf hv hdirect
  have hsz := hinv.sized hv
  refine ⟨s.frame v, exec_render_started (hinv.ready hf) hv, by rw [s.frame_of_direct v hdirect]; rfl,
    fun y x hy hx => ?_⟩
  have hpix := State.at?_frame_out_of_direct hdirect hinv.cfgValid hsz (hcache.layerShown hv .bg) hy hx
  rw [State.framePlot_eq hsz (hcache.layerShown hv .fg)] at hpix
  exact ⟨hpix, fun c => State.at?_presentSurface hy hx hpix⟩

/-- Settles O46: each element of ACC and each pixel of OUT by the expression of a frame in overdraw mode. -/
theorem frameWithOverdraw : Obligations.FrameWithOverdraw := by
  intro s v hinv hcache hf hv hover
  have hsz := hinv.sized hv
  refine ⟨s.frame v, exec_render_started (hinv.ready hf) hv, fun y x hy hx => ?_⟩
  rw [← State.framePlot_eq hsz (hcache.layerShown hv .fg)]
  exact ⟨State.at?_frame_acc hover hsz hy hx,
    State.at?_frame_out_of_overdraw hover hinv.cfgValid hsz (hcache.layerShown hv .bg) hy hx⟩

section
variable {s t : State} {v w : VideoState}

/-- The buffers and the events a RENDER of a ready machine leaves are those of one frame. -/
theorem frame_of_exec_render (hs : s.Ready) (hv : s.video = some v) (h : exec .render s = .next t)
    (hw : t.video = some w) : w = s.frame v ∧ t.events = s.events ++ [.present (s.presentSurface w.out)] := by
  obtain rfl := Host.Outcome.next.inj ((exec_render_started hs hv).symm.trans h)
  obtain rfl : s.frame v = w := Option.some.inj hw
  exact ⟨rfl, rfl⟩

/-- The same with other buffers put into the machine. -/
theorem frame_of_exec_render_withVideo (hs : s.Ready) (h : exec .render { s with video := some v } = .next t)
    (hw : t.video = some w) : w = s.frame v ∧ t.events = s.events ++ [.present (s.presentSurface w.out)] := by
  obtain ⟨hframe, hevents⟩ :=
    frame_of_exec_render (s := { s with video := some v }) ⟨hs.cfgValid, hs.noFault⟩ rfl h hw
  exact ⟨hframe.trans (s.frame_withVideo v (some v)), hevents⟩

end

/-- Settles O47: the flags and the cache after the two flushes of a frame. -/
theorem frameFlushesLayers : Obligations.FrameFlushesLayers := by
  intro s t v w hinv hf hv h hw
  obtain ⟨rfl, -⟩ := frame_of_exec_render (hinv.ready hf) hv h hw
  have hsz := hinv.sized hv
  refine ⟨State.isDirty_frame_fg hsz, fun hon j => ?_, fun hoff => ⟨fun j => ?_, ?_⟩⟩
  · rw [State.isDirty_frame_bg hsz, if_pos hon]
  · rw [State.isDirty_frame_bg hsz, hoff]
    rfl
  · have hcache := State.cache_frame_bg hsz
    rwa [State.backgroundFlush, hoff] at hcache

/-- Settles O48: both frames have at every pixel the value a fresh decode gives, over the same ACC. -/
theorem renderIndependentOfDirtyHistory : Obligations.RenderIndependentOfDirtyHistory := by
  intro s t t' v v' w w' hinv hcache hf hv hinv' hcache' hacc h hw h' hw'
  obtain ⟨rfl, hevents⟩ := frame_of_exec_render (hinv.ready hf) hv h hw
  obtain ⟨rfl, hevents'⟩ := frame_of_exec_render_withVideo (hinv.ready hf) h' hw'
  have hsz := hinv.sized hv
  have hsz' : v'.sized s.cfg = true := hinv'.sized rfl
  have hbg : s.LayerShown v' .bg := hcache'.layerShown rfl .bg
  have hfg : s.LayerShown v' .fg := hcache'.layerShown rfl .fg
  have hplot : ∀ y x, s.framePlot v y x = s.framePlot v' y x := fun y x =>
    (State.framePlot_eq hsz (hcache.layerShown hv .fg) y x).trans (State.framePlot_eq hsz' hfg y x).symm
  obtain ⟨-, -, hout, haccsz⟩ := (VideoState.sized_iff _ s.cfg).mp (State.sized_frame hsz)
  obtain ⟨-, -, hout', haccsz'⟩ := (VideoState.sized_iff _ s.cfg).mp (State.sized_frame hsz')
  have houts : (s.frame v).out = (s.frame v').out := by
    refine Surface.ext_sized hout hout' fun y x hy hx => ?_
    cases hover : s.overdraw with
    | false =>
      rw [State.at?_frame_out_of_direct hover hinv.cfgValid hsz (hcache.layerShown hv .bg) hy hx,
        State.at?_frame_out_of_direct hover hinv.cfgValid hsz' hbg hy hx, hplot]
    | true =>
      rw [State.at?_frame_out_of_overdraw hover hinv.cfgValid hsz (hcache.layerShown hv .bg) hy hx,
        State.at?_frame_out_of_overdraw hover hinv.cfgValid hsz' hbg hy hx, hplot, hacc]
  refine ⟨houts, ?_, ?_⟩
  · cases hover : s.overdraw with
    | false =>
      rw [s.frame_of_direct v hover, s.frame_of_direct v' hover]
      exact hacc.symm
    | true =>
      refine Surface.ext_sized haccsz haccsz' fun y x hy hx => ?_
      rw [State.at?_frame_acc hover hsz hy hx, State.at?_frame_acc hover hsz' hy hx, hplot, hacc]
  · rw [hevents, hevents', houts]

/-! ### Scroll -/

theorem State.scrollX_eq (s : State) : s.scrollX = s.scrollXHi.toNat * 256 + s.scrollXLo.toNat := by
  rw [State.scrollX, ← Nat.shiftLeft_add_eq_or_of_lt s.scrollXLo.isLt, Nat.shiftLeft_eq]

theorem State.scrollY_eq (s : State) : s.scrollY = s.scrollYHi.toNat * 256 + s.scrollYLo.toNat := by
  rw [State.scrollY, ← Nat.shiftLeft_add_eq_or_of_lt s.scrollYLo.isLt, Nat.shiftLeft_eq]

/-- The state with other scroll registers. -/
def State.withScroll (s : State) (xLo : Byte) (xHi : BitVec 1) (yLo : Byte) (yHi : BitVec 1) : State :=
  { s with scrollXLo := xLo, scrollXHi := xHi, scrollYLo := yLo, scrollYHi := yHi }

section
variable {s t : State} {xLo yLo : Byte} {xHi yHi : BitVec 1}

/-- The scroll enters a frame through the background index alone (44_compositor.md R610). -/
theorem State.frame_withScroll
    (hindex : ∀ cache y x, (s.withScroll xLo xHi yLo yHi).backgroundIndex cache y x = s.backgroundIndex cache y x)
    (v : VideoState) : (s.withScroll xLo xHi yLo yHi).frame v = s.frame v := by
  have hback : (s.withScroll xLo xHi yLo yHi).backgroundSurface v = s.backgroundSurface v := by
    unfold State.backgroundSurface
    congr 1
    funext y x
    rw [hindex]
    rfl
  cases h : s.overdraw with
  | false =>
    rw [s.frame_of_direct v h, State.frame_of_direct (s.withScroll xLo xHi yLo yHi) v h, hback]
    rfl
  | true =>
    rw [s.frame_of_overdraw v h, State.frame_of_overdraw (s.withScroll xLo xHi yLo yHi) v h, hback]
    rfl

/-- Scroll registers that show the same background leave everything else of a RENDER as it is. -/
theorem exec_render_withScroll
    (hindex : ∀ cache y x, (s.withScroll xLo xHi yLo yHi).backgroundIndex cache y x = s.backgroundIndex cache y x)
    (h : exec .render s = .next t) :
    exec .render (s.withScroll xLo xHi yLo yHi) = .next (t.withScroll xLo xHi yLo yHi) := by
  have hc := exec_cfgValid h
  cases hf : s.fault with
  | some r =>
    obtain rfl := exec_halted (by rw [hf]; nofun) h
    exact (exec_render _).trans (perform_halted (s := s.withScroll xLo xHi yLo yHi) hc hf _)
  | none =>
    have hs : (s.withScroll xLo xHi yLo yHi).Ready := ⟨hc, hf⟩
    cases hv : s.video with
    | none =>
      obtain rfl := Host.Outcome.next.inj ((exec_render_stopped ⟨hc, hf⟩ hv).symm.trans h)
      exact exec_render_stopped hs hv
    | some v =>
      obtain rfl := Host.Outcome.next.inj ((exec_render_started ⟨hc, hf⟩ hv).symm.trans h)
      rw [exec_render_started hs hv, State.renderFrame, State.frame_withScroll hindex v]
      rfl

end

/-- Settles O49: the scroll is taken modulo the size it grew by. -/
theorem scrollWraparound : Obligations.ScrollWraparound := by
  intro s t lo hi h
  obtain ⟨hxLo, hxHi, hyLo, hyHi, -⟩ := (exec_elementFrame h).control nofun nofun
  constructor
  · intro hshift
    refine (exec_render_withScroll (xLo := lo) (xHi := hi) (yLo := s.scrollYLo) (yHi := s.scrollYHi)
      (fun cache y x => ?_) h).trans (by rw [← hyLo, ← hyHi]; rfl)
    have hx : (s.withScroll lo hi s.scrollYLo s.scrollYHi).scrollX = s.scrollX + s.cfg.surfaceW .bg := by
      rw [State.scrollX_eq, State.scrollX_eq]
      exact hshift
    unfold State.backgroundIndex
    rw [hx, ← Nat.add_assoc]
    change (Surface.getD cache _ ((x + s.scrollX + s.cfg.surfaceW .bg) % s.cfg.surfaceW .bg) default).index = _
    rw [Nat.add_mod_right]
    rfl
  · intro hshift
    refine (exec_render_withScroll (xLo := s.scrollXLo) (xHi := s.scrollXHi) (yLo := lo) (yHi := hi)
      (fun cache y x => ?_) h).trans (by rw [← hxLo, ← hxHi]; rfl)
    have hy : (s.withScroll s.scrollXLo s.scrollXHi lo hi).scrollY = s.scrollY + s.cfg.surfaceH .bg := by
      rw [State.scrollY_eq, State.scrollY_eq]
      exact hshift
    unfold State.backgroundIndex
    rw [hy, ← Nat.add_assoc]
    change (Surface.getD cache ((y + s.scrollY + s.cfg.surfaceH .bg) % s.cfg.surfaceH .bg) _ default).index = _
    rw [Nat.add_mod_right]
    rfl

/-! ### Two frames in overdraw mode -/

section
variable {s : State} {v : VideoState}

theorem State.getD_frame_acc (hover : s.overdraw = true) (hv : v.sized s.cfg = true) {y x : Nat}
    (hy : y < s.cfg.raster.visH) (hx : x < s.cfg.raster.visW) :
    Surface.getD (s.frame v).acc y x none = (s.framePlot v y x).or (Surface.getD v.acc y x none) := by
  rw [Surface.getD, State.at?_frame_acc hover hv hy hx]
  rfl

/-- A frame's plots do not depend on ACC. -/
theorem State.framePlot_withAcc (s : State) (v : VideoState) (acc : Surface (Option Nat)) (y x : Nat) :
    s.framePlot { v with acc := acc } y x = s.framePlot v y x := by
  have hflush : s.frameFlush (v.withTargets v.out acc) = (s.frameFlush v).withTargets v.out acc := by
    unfold State.frameFlush State.backgroundFlush
    split
    · rw [s.flushLayer_withTargets, s.flushLayer_withTargets]
    · rw [s.flushLayer_withTargets]
  have hcache : (s.frameFlush (v.withTargets v.out acc)).cache = (s.frameFlush v).cache := by
    rw [hflush]
    rfl
  change s.framePlot (v.withTargets v.out acc) y x = s.framePlot v y x
  unfold State.framePlot
  rw [hcache]

theorem sized_clearAcc {c : Config} (hv : v.sized c = true) :
    VideoState.sized { v with acc := clearAcc c } c = true := by
  obtain ⟨hlen, hcache, hout, -⟩ := (v.sized_iff c).mp hv
  exact (VideoState.sized_iff _ c).mpr ⟨hlen, hcache, hout, Surface.sized_build _ _ _⟩

/-- What a frame plots is what it leaves in a clear ACC (44_compositor.md R636). -/
theorem State.getD_frame_acc_of_clear (hover : s.overdraw = true) (hv : v.sized s.cfg = true) {y x : Nat}
    (hy : y < s.cfg.raster.visH) (hx : x < s.cfg.raster.visW) :
    Surface.getD (s.frame { v with acc := clearAcc s.cfg }).acc y x none = s.framePlot v y x := by
  rw [State.getD_frame_acc hover (sized_clearAcc hv) hy hx, s.framePlot_withAcc, clearAcc,
    Surface.getD_build hy hx, Option.or_none]

end

/-- Settles O50: each frame lays its plots over the ACC it finds. -/
theorem overdrawUnion : Obligations.OverdrawUnion := by
  constructor
  · intro s t v w hf hdirect hv h hw
    obtain ⟨rfl, -⟩ := frame_of_exec_render ⟨exec_cfgValid h, hf⟩ hv h hw
    rw [s.frame_of_direct v hdirect]
    rfl
  · intro s t t' u p q v vt v2 vu vp vq y x hinv hf hover hv ht hvt hinv' hcfg hf' hover' hv2 hacc hu hvu hp hvp hq hvq
      hy hx
    obtain ⟨rfl, -⟩ := frame_of_exec_render (hinv.ready hf) hv ht hvt
    obtain ⟨rfl, -⟩ := frame_of_exec_render (hinv'.ready hf') hv2 hu hvu
    obtain ⟨rfl, -⟩ := frame_of_exec_render_withVideo (hinv.ready hf) hp hvp
    obtain ⟨rfl, -⟩ := frame_of_exec_render_withVideo (hinv'.ready hf') hq hvq
    have hy' : y < t'.cfg.raster.visH := by rw [hcfg]; exact hy
    have hx' : x < t'.cfg.raster.visW := by rw [hcfg]; exact hx
    have hfirst : Surface.getD (s.frame { v with acc := clearAcc s.cfg }).acc y x none = s.framePlot v y x :=
      State.getD_frame_acc_of_clear hover (hinv.sized hv) hy hx
    have hsecond : Surface.getD (t'.frame { v2 with acc := clearAcc s.cfg }).acc y x none = t'.framePlot v2 y x := by
      rw [← hcfg]
      exact State.getD_frame_acc_of_clear hover' (hinv'.sized hv2) hy' hx'
    calc Surface.getD (t'.frame v2).acc y x none
        = (t'.framePlot v2 y x).or (Surface.getD v2.acc y x none) :=
          State.getD_frame_acc hover' (hinv'.sized hv2) hy' hx'
      _ = (t'.framePlot v2 y x).or ((s.framePlot v y x).or (Surface.getD v.acc y x none)) := by
          rw [hacc, State.getD_frame_acc hover (hinv.sized hv) hy hx]
      _ = (Surface.getD (t'.frame { v2 with acc := clearAcc s.cfg }).acc y x none).or
            ((Surface.getD (s.frame { v with acc := clearAcc s.cfg }).acc y x none).or
              (Surface.getD v.acc y x none)) := by rw [hfirst, hsecond]

end Sys2Proof.Machine
end

section
/-! SUPPORT. The invariants (10_state.md): every command answers on a well-formed machine, keeps it well-formed and keeps
the cache invariant, and so does every step. O9 to O13. -/

namespace Sys2Proof.Machine

section
variable {s t : State} {v w : VideoState}

/-! ### Every command answers (60_exceptions.md R803, R851) -/

theorem perform_total {body : State → Host.Outcome State Fault Refusal} (hv : s.cfg.valid = true)
    (hbody : ∃ t, body s = .next t) : ∃ t, perform s body = .next t := by
  cases hf : s.fault with
  | none => rwa [perform_ready hv hf]
  | some r => exact ⟨_, perform_halted hv hf body⟩

theorem exec_total_of_perform {i : Instr} {body : State → Host.Outcome State Fault Refusal}
    (heq : exec i s = perform s body) (hv : s.cfg.valid = true) (hbody : ∃ t, body s = .next t) :
    ∃ t, exec i s = .next t := heq ▸ perform_total hv hbody

/-- A checked range has handlers for its codes (60_exceptions.md R853). -/
theorem handlers_of_found {c : Config} (hv : c.valid = true) {cpu : Cpu} {sp : Space} {a : Addr} {r : AddressRange}
    {rh wh : BitVec 5} {arg : Nat} (hf : findRange c cpu sp a = some r) (hk : r.kind = .reg rh wh arg) :
    (∃ hd, readHandlerOf rh = some hd) ∧ ∃ hd, writeHandlerOf wh = some hd := by
  obtain ⟨hmem, -, -⟩ := findRange_spec hf
  obtain ⟨-, hassigned, -⟩ := Config.range_checked hv hmem
  simpa only [AddressRange.handlersAssigned, hk, Bool.and_eq_true, Option.isSome_iff_exists] using hassigned

theorem State.Inv.memRead_total (h : s.Inv) (cpu : Cpu) (sp : Space) (a : Addr) : ∃ t, s.memRead cpu sp a = .next t := by
  cases hf : findRange s.cfg cpu sp a with
  | none => exact ⟨_, by simp only [State.memRead, hf]; rfl⟩
  | some r =>
    by_cases hreg : ∃ rh wh arg, r.kind = .reg rh wh arg
    · obtain ⟨rh, wh, arg, hk⟩ := hreg
      obtain ⟨⟨hd, hh⟩, -⟩ := handlers_of_found h.cfgValid hf hk
      exact ⟨_, State.memRead_reg hf hk hh⟩
    · simp only [not_exists] at hreg
      obtain ⟨l, hl⟩ := h.exists_locate hf hreg
      exact ⟨_, State.memRead_store hf hreg hl⟩

theorem State.Inv.memWrite_total (h : s.Inv) (cpu : Cpu) (sp : Space) (a : Addr) (d : Byte) :
    ∃ t, s.memWrite cpu sp a d = .next t := by
  cases hf : findRange s.cfg cpu sp a with
  | none => exact ⟨_, by simp only [State.memWrite, hf]; rfl⟩
  | some r =>
    by_cases hreg : ∃ rh wh arg, r.kind = .reg rh wh arg
    · obtain ⟨rh, wh, arg, hk⟩ := hreg
      obtain ⟨-, hd, hh⟩ := handlers_of_found h.cfgValid hf hk
      exact ⟨_, State.memWrite_reg hf hk hh⟩
    · simp only [not_exists] at hreg
      obtain ⟨l, hl⟩ := h.exists_locate hf hreg
      exact ⟨_, State.memWrite_store hf hreg hl⟩

/-- On a well-formed machine only the router could stop, and it does not. -/
theorem State.Inv.exec_total (h : s.Inv) (i : Instr) : ∃ t, exec i s = .next t := by
  cases i with
  | busrd cpu sp a => exact exec_total_of_perform (exec_busrd s cpu sp a) h.cfgValid (h.memRead_total cpu sp a)
  | buswr cpu sp a d => exact exec_total_of_perform (exec_buswr s cpu sp a d) h.cfgValid (h.memWrite_total cpu sp a d)
  | decode k tile c fx fy =>
    refine exec_total_of_perform (exec_decode s k tile c fx fy) h.cfgValid ?_
    by_cases hwf : (Instr.decode k tile c fx fy).wellFormed s.cfg
    · exact ⟨_, if_pos hwf⟩
    · exact ⟨_, if_neg hwf⟩
  | flushdirty L =>
    refine exec_total_of_perform (exec_flushdirty s L) h.cfgValid ?_
    split
    · exact ⟨_, rfl⟩
    · exact ⟨_, rfl⟩
  | render =>
    refine exec_total_of_perform (exec_render s) h.cfgValid ?_
    split
    · exact ⟨_, rfl⟩
    · exact ⟨_, rfl⟩
  | selbank v => exact exec_total_of_perform (exec_selbank s v) h.cfgValid ⟨_, rfl⟩
  | markdirty L i => exact exec_total_of_perform (exec_markdirty s L i) h.cfgValid ⟨_, rfl⟩
  | invalall => exact exec_total_of_perform (exec_invalall s) h.cfgValid ⟨_, rfl⟩
  | palload => exact exec_total_of_perform (exec_palload s) h.cfgValid ⟨_, rfl⟩
  | tick q => exact exec_total_of_perform (exec_tick s q) h.cfgValid ⟨_, rfl⟩
  | mbwr v => exact exec_total_of_perform (exec_mbwr s v) h.cfgValid ⟨_, rfl⟩
  | mbrd => exact exec_total_of_perform (exec_mbrd s) h.cfgValid ⟨_, rfl⟩
  | mbclr => exact exec_total_of_perform (exec_mbclr s) h.cfgValid ⟨_, rfl⟩
  | vidstart => exact exec_total_of_perform (exec_vidstart s) h.cfgValid ⟨_, rfl⟩
  | vidstop => exact exec_total_of_perform (exec_vidstop s) h.cfgValid ⟨_, rfl⟩
  | reset => exact exec_total_of_perform (exec_reset s) h.cfgValid ⟨_, rfl⟩

/-! ### What a command can leave of the video buffers -/

/-- `w` is `v` with flags set and ACC rewritten, in buffers of the same sizes. -/
structure MoreDirty (c : Config) (v w : VideoState) : Prop where
  sized : w.sized c = true
  cache : w.cache = v.cache
  clean : ∀ L i, i < c.cellCount L → w.isDirty L i = false → v.isDirty L i = false

theorem MoreDirty.refl {c : Config} (hv : v.sized c = true) : MoreDirty c v v := ⟨hv, rfl, fun _ _ _ h => h⟩

theorem MoreDirty.setDirty {c : Config} (hv : v.sized c = true) {L : Layer} {i : Nat} (hi : i < c.cellCount L) :
    MoreDirty c v (v.setDirty L i true) := by
  obtain ⟨hlen, -⟩ := (v.sized_iff c).mp hv
  refine ⟨VideoState.sized_setDirty hv L i true, rfl, fun L' j _ hd => ?_⟩
  rw [v.isDirty_setDirty true (by rw [hlen L]; exact hi)] at hd
  split at hd
  · cases hd
  · exact hd

theorem MoreDirty.allDirty {c : Config} (hv : v.sized c = true) : MoreDirty c v { v with dirty := allDirty c } :=
  ⟨VideoState.sized_allDirty hv, rfl, fun L i hi hd =>
    absurd ((isDirty_allDirty v c L i).mpr hi) (by rw [hd]; exact Bool.false_ne_true)⟩

theorem MoreDirty.clearAcc {c : Config} (hv : v.sized c = true) : MoreDirty c v { v with acc := clearAcc c } :=
  ⟨sized_clearAcc hv, rfl, fun _ _ _ h => h⟩

/-- The buffers `w` that a command can leave in a machine that was in state `s`. -/
def BuffersAfter (s : State) (w : VideoState) : Prop :=
  (∃ v, s.video = some v ∧ (MoreDirty s.cfg v w ∨ (∃ L, w = s.flushLayer L v) ∨ w = s.frame v)) ∨
    ∃ n, w = newVideo s.cfg n

theorem BuffersAfter.of_same (h : s.Inv) (hw : s.video = some w) : BuffersAfter s w :=
  .inl ⟨w, hw, .inl (.refl (h.sized hw))⟩

theorem BuffersAfter.of_markDirty (h : s.Inv) {L : Layer} {i : Nat} (hw : (s.markDirty L i).video = some w) :
    BuffersAfter s w := by
  obtain ⟨v, hv, rfl⟩ := Option.map_eq_some_iff.mp hw
  exact .inl ⟨v, hv, .inl (.setDirty (h.sized hv) (Nat.mod_lt _ (Config.cellCount_pos h.cfgValid L)))⟩

theorem BuffersAfter.of_forceAllDirty (h : s.Inv) (hw : s.forceAllDirty.video = some w) : BuffersAfter s w := by
  obtain ⟨v, hv, rfl⟩ := Option.map_eq_some_iff.mp hw
  exact .inl ⟨v, hv, .inl (.allDirty (h.sized hv))⟩

theorem BuffersAfter.of_writeHandler (h : s.Inv) {hd : WriteHandler} {arg : Nat} {d : Byte}
    (hw : (s.writeHandler hd arg d).video = some w) : BuffersAfter s w := by
  by_cases hover : hd = .overdraw
  · subst hover
    change (s.wOverdraw arg d).video = some w at hw
    rw [s.wOverdraw_eq arg d] at hw
    dsimp only at hw
    split at hw
    · obtain ⟨v, hv, rfl⟩ := Option.map_eq_some_iff.mp hw
      exact .inl ⟨v, hv, .inl (.clearAcc (h.sized hv))⟩
    · exact .of_same h hw
  · rw [State.writeHandler_video hover] at hw
    exact .of_same h hw

theorem BuffersAfter.of_writeLoc (h : s.Inv) {l : Loc} {d : Byte} (hw : (s.writeLoc l d).video = some w) :
    BuffersAfter s w := by
  cases l with
  | tile L p i => exact .of_markDirty h hw
  | rom | ram | sprite => exact .of_same h hw

/-- Every command leaves the buffers with more flags, flushed, drawn, new or gone. -/
theorem exec_buffersAfter {i : Instr} (h : s.Inv) (hrun : exec i s = .next t) (hw : t.video = some w) :
    BuffersAfter s w := by
  cases i with
  | busrd cpu sp a => obtain ⟨_, _, _, rfl⟩ := exec_busrd_frame hrun; exact .of_same h hw
  | buswr cpu sp a d =>
    obtain ⟨-, ⟨-, hbody⟩ | ⟨-, rfl⟩⟩ := perform_cases ((exec_buswr s cpu sp a d).symm.trans hrun)
    · obtain ⟨-, rfl⟩ | ⟨r, l, -, -, rfl⟩ | ⟨r, rh, wh, arg, hd, -, -, -, rfl⟩ := State.memWrite_cases hbody
      · exact .of_same h hw
      · exact .of_writeLoc h hw
      · exact .of_writeHandler h hw
    · exact .of_same h hw
  | selbank v => obtain ⟨_, _, _, _, -, -, rfl⟩ := exec_selbank_frame hrun; exact .of_same h hw
  | decode k tile c fx fy => obtain ⟨_, _, -, rfl⟩ := exec_decode_frame hrun; exact .of_same h hw
  | markdirty L i =>
    obtain ⟨-, rfl⟩ | ⟨-, rfl⟩ := exec_cases_of_finish (exec_markdirty s L i) hrun
    · exact .of_markDirty h hw
    · exact .of_same h hw
  | flushdirty L =>
    obtain ⟨_, _, -, rfl⟩ | ⟨v, hv, rfl⟩ := exec_flushdirty_frame hrun
    · exact .of_same h hw
    · exact .inl ⟨v, hv, .inr (.inl ⟨L, (Option.some.inj hw).symm⟩)⟩
  | invalall =>
    obtain ⟨-, rfl⟩ | ⟨-, rfl⟩ := exec_cases_of_finish (exec_invalall s) hrun
    · exact .of_forceAllDirty h hw
    · exact .of_same h hw
  | palload =>
    obtain ⟨-, rfl⟩ | ⟨-, rfl⟩ := exec_cases_of_finish (exec_palload s) hrun
    · exact .of_forceAllDirty h hw
    · exact .of_same h hw
  | render =>
    obtain ⟨_, _, -, rfl⟩ | ⟨v, hv, rfl⟩ := exec_render_frame hrun
    · exact .of_same h hw
    · exact .inl ⟨v, hv, .inr (.inr (Option.some.inj hw).symm)⟩
  | tick q => obtain ⟨_, _, -, rfl⟩ := exec_tick_frame hrun; exact .of_same h hw
  | mbwr v => obtain ⟨_, _, _, _, -, rfl⟩ := exec_mbwr_frame hrun; exact .of_same h hw
  | mbrd => obtain ⟨_, rfl⟩ := exec_mbrd_frame hrun; exact .of_same h hw
  | mbclr => obtain ⟨_, _, rfl⟩ := exec_mbclr_frame hrun; exact .of_same h hw
  | vidstart =>
    obtain ⟨video, _, _, _, rfl | rfl | ⟨n, rfl⟩, rfl⟩ := exec_vidstart_frame hrun
    · cases hw
    · exact .of_same h hw
    · exact .inr ⟨n, (Option.some.inj hw).symm⟩
  | vidstop =>
    obtain ⟨video, _, rfl | rfl, rfl⟩ := exec_vidstop_frame hrun
    · cases hw
    · exact .of_same h hw
  | reset =>
    obtain ⟨-, rfl⟩ | ⟨-, rfl⟩ := exec_cases_of_finish (exec_reset s) hrun
    · exact .of_forceAllDirty h hw
    · exact .of_same h hw

theorem BuffersAfter.sized (h : s.Inv) (hw : BuffersAfter s w) : w.sized s.cfg = true := by
  obtain ⟨v, hv, hmore | ⟨L, rfl⟩ | rfl⟩ | ⟨n, rfl⟩ := hw
  · exact hmore.sized
  · exact State.sized_flushLayer (h.sized hv)
  · exact State.sized_frame (h.sized hv)
  · exact newVideo_sized s.cfg n

/-! ### The well-formed machine -/

/-- A machine with the configuration and the memories of a well-formed one is well-formed, if its bank and its buffers
are right. -/
theorem State.Inv.of_kept (h : s.Inv) (hc : t.cfg = s.cfg) (hbank : t.bank < s.cfg.bank.bankCount) (hram : t.ram = s.ram)
    (hvram : t.vram = s.vram) (hspr : t.sprram = s.sprram) (hvideo : ∀ w, t.video = some w → w.sized s.cfg = true) :
    t.Inv where
  cfgValid := hc ▸ h.cfgValid
  bankRange := hc ▸ hbank
  ramRegions := by rw [hc, hram]; exact h.ramRegions
  ramFits := by rw [hc, hram]; exact h.ramFits
  vramFits := by rw [hc, hvram]; exact h.vramFits
  sprramFits := by rw [hc, hspr]; exact h.sprramFits
  videoSized := by rw [hc]; exact hvideo

theorem Memory.fits_write {m : Memory} {n i : Nat} (v : Byte) (hi : i < n) (h : Memory.fits m n = true) :
    Memory.fits (m.write i v) n = true := by
  simp only [Memory.fits, Bool.and_eq_true] at h ⊢
  exact ⟨Sys2Proof.Memory.wf_write i v h.1, Sys2Proof.Memory.below_write v hi h.2⟩

theorem Planes.fits_write {p : Planes} {n i : Nat} (q : Nat) (v : Byte) (hi : i < n) (h : Planes.fits p n = true) :
    Planes.fits (p.write q i v) n = true := by
  simp only [Planes.fits, Planes.write, Bool.and_eq_true] at h ⊢
  obtain ⟨hcode, hattr⟩ := h
  split
  · exact ⟨Memory.fits_write v hi hcode, hattr⟩
  · exact ⟨hcode, Memory.fits_write v hi hattr⟩

/-- A write to a byte of a ROM or of a memory the machine holds keeps it well-formed. -/
theorem State.Inv.writeLoc (h : s.Inv) {l : Loc} (hl : (∃ region off, l = .rom region off) ∨ s.Holds l) (d : Byte) :
    (s.writeLoc l d).Inv := by
  have hvideo : ∀ w, (s.writeLoc l d).video = some w → w.sized s.cfg = true := fun w hw =>
    (BuffersAfter.of_writeLoc h hw).sized h
  cases l with
  | rom region off => exact h
  | ram region off =>
    obtain ⟨_, _, hrom⟩ | ⟨-, hoff⟩ := hl
    · cases hrom
    · refine { h with ramRegions := (List.length_modify _ _ _).trans h.ramRegions, ramFits := fun r m hm => ?_ }
      change (s.ram.modify region fun m => m.write off d)[r]? = some m at hm
      rw [List.getElem?_modify] at hm
      obtain ⟨m', hm', rfl⟩ := Option.map_eq_some_iff.mp hm
      split
      · next heq =>
        subst heq
        exact Memory.fits_write d hoff (h.ramFits region m' hm')
      · exact h.ramFits r m' hm'
  | tile L p i =>
    obtain ⟨_, _, hrom⟩ | ⟨-, hcell⟩ := hl
    · cases hrom
    · refine { h with vramFits := fun L' => ?_, videoSized := hvideo }
      change Planes.fits ((s.vram.set L ((s.vram.get L).write p i d)).get L') (s.cfg.cellCount L') = true
      rw [Layered.get_set]
      split
      · next heq =>
        subst heq
        exact Planes.fits_write p d hcell (h.vramFits L')
      · exact h.vramFits L'
  | sprite off =>
    obtain ⟨_, _, hrom⟩ | hoff := hl
    · cases hrom
    · exact { h with sprramFits := Memory.fits_write d hoff h.sprramFits }

/-- The same machine with another result or another list of issued words. -/
theorem State.Inv.of_interface (h : s.Inv) (hc : t.cfg = s.cfg) (hbank : t.bank = s.bank) (hram : t.ram = s.ram)
    (hvram : t.vram = s.vram) (hspr : t.sprram = s.sprram) (hvideo : t.video = s.video) : t.Inv :=
  h.of_kept hc (hbank ▸ h.bankRange) hram hvram hspr fun _ hw => h.sized (hvideo ▸ hw)

/-- No handler writes the configuration or a memory. -/
theorem writeHandler_memories (s : State) (hd : WriteHandler) (arg : Nat) (d : Byte) :
    (s.writeHandler hd arg d).cfg = s.cfg ∧ (s.writeHandler hd arg d).ram = s.ram ∧
      (s.writeHandler hd arg d).vram = s.vram ∧ (s.writeHandler hd arg d).sprram = s.sprram := by
  rw [s.writeHandler_frame hd arg d]
  exact ⟨rfl, rfl, rfl, rfl⟩

theorem exec_buswr_inv {cpu : Cpu} {sp : Space} {a : Addr} {d : Byte} (h : s.Inv)
    (hrun : exec (.buswr cpu sp a d) s = .next t) : t.Inv := by
  obtain ⟨-, ⟨-, hbody⟩ | ⟨-, rfl⟩⟩ := perform_cases ((exec_buswr s cpu sp a d).symm.trans hrun)
  · obtain ⟨-, rfl⟩ | ⟨r, l, -, hl, rfl⟩ | ⟨r, rh, wh, arg, hd, -, -, -, rfl⟩ := State.memWrite_cases hbody
    · exact h.of_interface rfl rfl rfl rfl rfl rfl
    · exact (h.writeLoc (h.holds_of_locate hl) d).of_interface rfl rfl rfl rfl rfl rfl
    · obtain ⟨hc, hram, hvram, hspr⟩ := writeHandler_memories s hd arg d
      refine h.of_kept hc ?_ hram hvram hspr fun w hw => (BuffersAfter.of_writeHandler h hw).sized h
      obtain hbank | hbank := s.writeHandler_bank hd arg d
      · exact hbank ▸ h.bankRange
      · exact hbank ▸ bankTarget_lt h.cfgValid d
  · exact h.of_interface rfl rfl rfl rfl rfl rfl

/-- A command other than BUSWR leaves the BankLatch in its range (10_state.md R110). -/
theorem exec_bankRange {i : Instr} (h : s.Inv) (hrun : exec i s = .next t) (hbus : ∀ cpu sp a d, i ≠ .buswr cpu sp a d) :
    t.bank < s.cfg.bank.bankCount := by
  have hsame := (exec_elementFrame hrun).bank hbus
  cases i with
  | selbank v =>
    obtain ⟨_, _, _, _, rfl | rfl, -, rfl⟩ := exec_selbank_frame hrun
    · exact h.bankRange
    · exact bankTarget_lt h.cfgValid v
  | reset =>
    obtain ⟨-, -, hreset⟩ := Config.valid_bank h.cfgValid
    obtain ⟨g, _, _, _, _, hbank | hbank, -, rfl⟩ := exec_reset_frame hrun
    · exact lt_of_eq_of_lt hbank h.bankRange
    · exact lt_of_eq_of_lt hbank hreset
  | _ => exact (hsame nofun nofun).symm ▸ h.bankRange

theorem exec_inv {i : Instr} (h : s.Inv) (hrun : exec i s = .next t) : t.Inv := by
  by_cases hbus : ∃ cpu sp a d, i = .buswr cpu sp a d
  · obtain ⟨cpu, sp, a, d, rfl⟩ := hbus
    exact exec_buswr_inv h hrun
  · simp only [not_exists] at hbus
    have hframe := exec_elementFrame hrun
    obtain ⟨hram, hvram, hspr⟩ := hframe.memories hbus
    exact h.of_kept hframe.cfg (exec_bankRange h hrun hbus) hram hvram hspr
      fun w hw => (exec_buffersAfter h hrun hw).sized h

/-- A step runs a command from the state without its word, or changes nothing an invariant speaks of: it does nothing,
or it marks a fault, or it returns `halted`. -/
theorem step_from (h : step s = .next t) :
    (∃ i rest, exec i { s with commands := rest } = .next t) ∨
      ∃ commands fault result, t = { s with commands := commands, fault := fault, result := result } := by
  obtain ⟨-, hidle⟩ | ⟨w, rest, -, ⟨i, -, hstep⟩ | ⟨-, hstep⟩⟩ := step_cases s
  · obtain rfl := Host.Outcome.next.inj (h.symm.trans hidle)
    exact .inr ⟨_, _, _, rfl⟩
  · exact .inl ⟨i, rest, hstep.symm.trans h⟩
  · obtain ⟨-, ⟨-, hraise⟩ | ⟨-, rfl⟩⟩ := perform_cases (hstep.symm.trans h)
    · obtain rfl := raiseFault_eq_next hraise
      exact .inr ⟨_, _, _, rfl⟩
    · exact .inr ⟨_, _, _, rfl⟩

theorem State.Inv.withoutWord (h : s.Inv) (rest : List Word) : State.Inv { s with commands := rest } :=
  h.of_interface rfl rfl rfl rfl rfl rfl

/-! ### The cache invariant (10_state.md R144) -/

/-- A cell's block is decoded from the cell's own two bytes (30_encoding.md R350). -/
theorem State.cellBlock_congr {L : Layer} {i : Nat} (hc : t.cfg = s.cfg) (hcode : t.vramByte L 0 i = s.vramByte L 0 i)
    (hattr : t.vramByte L 1 i = s.vramByte L 1 i) : t.cellBlock L i = s.cellBlock L i := by
  have hfields : t.cellFields L i = s.cellFields L i := by
    unfold State.cellFields State.cellAttr
    rw [hc, hcode, hattr]
  unfold State.cellBlock
  rw [hfields, hc]

theorem State.cellShown_congr {L : Layer} {i : Nat} (hc : t.cfg = s.cfg) (hblock : t.cellBlock L i = s.cellBlock L i)
    (h : s.cellShown w L i) : t.cellShown w L i := by
  unfold State.cellShown at h ⊢
  rw [hc, hblock]
  exact h

theorem State.LayerShown.congr {L : Layer} (hc : t.cfg = s.cfg) (hvram : t.vram = s.vram) (h : s.LayerShown w L) :
    t.LayerShown w L := by
  have hbyte : ∀ p i, t.vramByte L p i = s.vramByte L p i := fun p i =>
    congrArg (fun m : Layered Planes => ((m.get L).plane p).read i) hvram
  intro i hi hd
  exact State.cellShown_congr hc (State.cellBlock_congr hc (hbyte 0 i) (hbyte 1 i)) (h i (hc ▸ hi) hd)

theorem State.LayerShown.flush {L : Layer} (h : s.LayerShown v L) (hv : v.sized s.cfg = true) (L' : Layer) :
    s.LayerShown (s.flushLayer L' v) L := by
  by_cases hL : L = L'
  · subst hL
    exact fun i hi _ => h.flushed hv hi
  · exact h.flush_other hv hL

theorem State.LayerShown.frame {L : Layer} (h : s.LayerShown v L) (hv : v.sized s.cfg = true) :
    s.LayerShown (s.frame v) L := by
  have hback : s.LayerShown (s.backgroundFlush v) L := by
    unfold State.backgroundFlush
    split
    · exact h.flush hv .bg
    · exact h
  have hflush : s.LayerShown (s.frameFlush v) L := hback.flush (State.sized_backgroundFlush hv) .fg
  intro i hi hd
  rw [s.isDirty_frame v] at hd
  unfold State.cellShown
  rw [s.frame_cache v]
  exact hflush i hi hd

/-- While the video RAM stands, every command leaves buffers in which the clean cells are shown. -/
theorem BuffersAfter.layerShown (h : s.Inv) (hcache : s.CacheInv) (hw : BuffersAfter s w) (L : Layer) :
    s.LayerShown w L := by
  obtain ⟨v, hv, hmore | ⟨L', rfl⟩ | rfl⟩ | ⟨n, rfl⟩ := hw
  · intro i hi hd
    unfold State.cellShown
    rw [hmore.cache]
    exact hcache v hv L i hi (hmore.clean L i hi hd)
  · exact (hcache.layerShown hv L).flush (h.sized hv) L'
  · exact (hcache.layerShown hv L).frame (h.sized hv)
  · intro i hi hd
    exact absurd ((isDirty_newVideo s.cfg n L i).mpr hi) (by rw [hd]; exact Bool.false_ne_true)

/-- A write to video RAM changes the block of its own cell alone, which it leaves dirty (40_dispatch.md R407). -/
theorem writeLoc_tile_cacheInv (h : s.Inv) (hcache : s.CacheInv) {L : Layer} {p i : Nat} (hl : s.Holds (.tile L p i))
    (d : Byte) : (s.writeLoc (.tile L p i) d).CacheInv := by
  intro w hw L' j hj hd
  obtain ⟨hp, hi⟩ := hl
  obtain ⟨v, hv, rfl⟩ := Option.map_eq_some_iff.mp hw
  have hmark : (v.setDirty L (i % s.cfg.cellCount L) true).isDirty L' j = false := hd
  rw [v.isDirty_setDirty true (h.mod_cellCount_lt hv L i), Nat.mod_eq_of_lt hi] at hmark
  split at hmark
  · cases hmark
  · next hother =>
    have hbyte : ∀ q, q < 2 → (s.writeLoc (.tile L p i) d).vramByte L' q j = s.vramByte L' q j := fun q hq => by
      rw [s.vramByte_writeLoc hq hp, if_neg fun heq => hother ⟨heq.1, heq.2.2⟩]
    have hblock : (s.writeLoc (.tile L p i) d).cellBlock L' j = s.cellBlock L' j :=
      State.cellBlock_congr (s.writeLoc_cfg (.tile L p i) d) (hbyte 0 (by decide)) (hbyte 1 (by decide))
    have hcell : s.cellShown (v.setDirty L (i % s.cfg.cellCount L) true) L' j := hcache v hv L' j hj hmark
    exact State.cellShown_congr (s.writeLoc_cfg (.tile L p i) d) hblock hcell

theorem exec_buswr_cacheInv {cpu : Cpu} {sp : Space} {a : Addr} {d : Byte} (h : s.Inv) (hcache : s.CacheInv)
    (hrun : exec (.buswr cpu sp a d) s = .next t) : t.CacheInv := by
  have kept : t.cfg = s.cfg → t.vram = s.vram → t.CacheInv := fun hc hvram w hw L =>
    (BuffersAfter.layerShown h hcache (exec_buffersAfter h hrun hw) L).congr hc hvram
  obtain ⟨-, ⟨-, hbody⟩ | ⟨-, rfl⟩⟩ := perform_cases ((exec_buswr s cpu sp a d).symm.trans hrun)
  · obtain ⟨-, rfl⟩ | ⟨r, l, -, hl, rfl⟩ | ⟨r, rh, wh, arg, hd, -, -, -, rfl⟩ := State.memWrite_cases hbody
    · exact kept rfl rfl
    · cases l with
      | tile L p i =>
        obtain ⟨_, _, hrom⟩ | hholds := h.holds_of_locate hl
        · cases hrom
        · exact writeLoc_tile_cacheInv h hcache hholds d
      | rom | ram | sprite => exact kept rfl rfl
    · obtain ⟨hc, -, hvram, -⟩ := writeHandler_memories s hd arg d
      exact kept hc hvram
  · exact kept rfl rfl

theorem exec_cacheInv {i : Instr} (h : s.Inv) (hcache : s.CacheInv) (hrun : exec i s = .next t) : t.CacheInv := by
  by_cases hbus : ∃ cpu sp a d, i = .buswr cpu sp a d
  · obtain ⟨cpu, sp, a, d, rfl⟩ := hbus
    exact exec_buswr_cacheInv h hcache hrun
  · simp only [not_exists] at hbus
    have hframe := exec_elementFrame hrun
    obtain ⟨-, hvram, -⟩ := hframe.memories hbus
    exact fun w hw L => (BuffersAfter.layerShown h hcache (exec_buffersAfter h hrun hw) L).congr hframe.cfg hvram

theorem State.powerOn_inv {c : Config} (hv : c.valid = true) : (State.powerOn c).Inv where
  cfgValid := hv
  bankRange := by
    obtain ⟨-, -, hreset⟩ := Config.valid_bank hv
    exact hreset
  ramRegions := List.length_map _
  ramFits r m hm := by
    obtain ⟨_, -, rfl⟩ := Option.map_eq_some_iff.mp ((List.getElem?_map ..).symm.trans hm)
    rfl
  vramFits L := by cases L <;> rfl
  sprramFits := rfl
  videoSized v hvideo := absurd hvideo (Option.some_ne_none v).symm

end

/-! ### The statements -/

/-- Settles O9. -/
theorem wellFormedMachineNeverStops : Obligations.WellFormedMachineNeverStops := by
  intro s h
  refine ⟨h.exec_total, ?_⟩
  obtain ⟨-, hidle⟩ | ⟨w, rest, -, ⟨i, -, hstep⟩ | ⟨-, hstep⟩⟩ := step_cases s
  · exact ⟨s, hidle⟩
  · rw [hstep]
    exact (h.withoutWord rest).exec_total i
  · rw [hstep]
    exact perform_total (s := { s with commands := rest }) h.cfgValid ⟨_, rfl⟩

/-- Settles O10, by the command the step runs. -/
theorem stepKeepsWellFormed : Obligations.StepKeepsWellFormed := by
  intro s t h hstep
  obtain ⟨i, rest, hrun⟩ | ⟨_, _, _, rfl⟩ := step_from hstep
  · exact exec_inv (h.withoutWord rest) hrun
  · exact h.of_interface rfl rfl rfl rfl rfl rfl

/-- Settles O11: at power-on every memory is empty and no buffer stands. -/
theorem powerOnIsWellFormed : Obligations.PowerOnIsWellFormed :=
  ⟨fun _ hv => ⟨State.powerOn_inv hv, fun v hvideo => absurd hvideo (Option.some_ne_none v).symm, ⟨hv, rfl⟩⟩, rfl,
    Tests.fx_valid⟩

/-- Settles O12. -/
theorem powerOnState : Obligations.PowerOnState :=
  fun _ => ⟨rfl, rfl, rfl, rfl, rfl, rfl, rfl⟩

/-- Settles O13, by the command the step runs. -/
theorem stepKeepsCacheInvariant : Obligations.StepKeepsCacheInvariant := by
  intro s t h hcache hstep
  obtain ⟨i, rest, hrun⟩ | ⟨_, _, _, rfl⟩ := step_from hstep
  · exact exec_cacheInv (h.withoutWord rest) hcache hrun
  · exact hcache

end Sys2Proof.Machine
end
